-- ==== Sys2Proof/Word.lean ====
section
/-! DEFINITION. The widths of the block's values (00_scope.md R11, 10_state.md R30, 30_encoding.md R76). All
are unsigned, bit 0 the least significant (00_scope.md R15). -/
namespace Sys2Proof

/-- A byte of the frame buffer, an entry of `GAMMA`, a raw colour channel (R9, R11). -/
abbrev Byte := BitVec 8

/-- A coordinate field, `cmd.x` or `cmd.y` (R79). -/
abbrev Coord := BitVec 16

/-- The field `cmd.pix` (R78). -/
abbrev PixelWord := BitVec 32

/-- The word on port `cmd` (R75). -/
abbrev CmdWord := BitVec 68

/-- The value on port `rsp_data` (R84). -/
abbrev RspData := BitVec 16

/-- `TX_IDX`, an address of the frame space (R26, R50). -/
abbrev FrameIdx := BitVec 17

end Sys2Proof
end

