-- ==== Sys2Proof/Syntax.lean ====
section
/-! DEFINITION. The commands of format CMD, one constructor per row of the opcode table (30_encoding.md R77,
R88). A constructor carries the fields its operation reads and no other (R81, R82). -/
namespace Sys2Proof

/-- A decoded command (30_encoding.md R82). -/
inductive Instr where
  | nop
  | pix (x y : Coord) (r g b : Byte)
  | send
  | glut (i : Byte)
  | soff (x y : Coord)
  | rsvd5
  | rsvd6
  | rsvd7
  | rsvd8
  | rsvd9
  | rsvdA
  | rsvdB
  | rsvdC
  | rsvdD
  | rsvdE
  | rsvdF
  deriving DecidableEq, Repr

end Sys2Proof
end

