-- ==== Sys2Proof/Config.lean ====
section
/-! DEFINITION. What is fixed when the hardware is elaborated (00_scope.md R6 to R10), and the free values:
what the spec leaves open and no proof can see (93_implementation_defined.md U1, U8). -/
namespace Sys2Proof

/-- The two refusals of the configuration check (00_scope.md R8, 60_exceptions.md R166, R167). Neither has a
run-time form. -/
inductive ConfigError where
  | constructionError  -- zero or negative width or height
  | encodingError      -- the payload length does not fit the 16-bit protocol field
  deriving DecidableEq, Repr

/-- `MAP_POLICY` (00_scope.md R10): exactly one defined value; another has no meaning (U7). -/
inductive MapPolicy where
  | serpentineColumnMajor
  deriving DecidableEq, Repr

/-- `check_config` of 00_scope.md R8, over the integers; `none` is `ok`. ConstructionError is tested first
(R178). -/
def checkConfig (w h : Int) : Option ConfigError :=
  if w ≤ 0 ∨ h ≤ 0 then some .constructionError
  else if 3 * w * h > 0xFFFF then some .encodingError
  else none

/-- A legal configuration (00_scope.md R6, R8, R10). An illegal pair has no hardware, so it has no value of
this type (U3). -/
structure Config where
  /-- `W`, the display width in pixels. -/
  width  : Nat
  /-- `H`, the display height in pixels. -/
  height : Nat
  policy : MapPolicy := .serpentineColumnMajor
  legal  : checkConfig width height = none := by decide
  deriving DecidableEq, Repr

/-- `N = W * H`, pixels per frame (00_scope.md R7). -/
def Config.pixels (c : Config) : Nat := c.width * c.height

/-- `PLEN = 3 * N`, the payload length in bytes (00_scope.md R7). -/
def Config.payloadLen (c : Config) : Nat := 3 * c.pixels

/-- `FLEN = 4 + PLEN`, the length of the frame buffer in bytes (00_scope.md R7). -/
def Config.frameLen (c : Config) : Nat := 4 + c.payloadLen

/-- FREE VALUE (U1, 10_state.md R25): the byte at address `addr` of the arbitrary contents `FRAME` has after the
reset numbered `draw`, until it is written. No body: every claim holds whatever it is (log 3). -/
opaque Config.freeFrameByte (draw addr : Nat) : Byte

/-- FREE VALUE (U8): what `TX_IDX` holds after the end of the transmission numbered `draw`, until the next SEND
or reset (log 5). -/
opaque Config.freeTxIdx (draw : Nat) : FrameIdx

end Sys2Proof
end

