-- ==== Sys2Proof/WellFormed.lean ====
section
/-! DEFINITION. The checks made before anything runs: which numbers are command words, which commands a host
may use, and which pairs of integers are a configuration. -/
namespace Sys2Proof

/-- Every decoded command is well formed: each operand is used as it stands and no value of it is illegal
(30_encoding.md R78, R79, R82; 20_memory.md R52). Its width is in its type. -/
def Instr.wellFormed : Instr → Bool
  | .nop | .pix _ _ _ _ _ | .send | .glut _ | .soff _ _ => true
  | .rsvd5 | .rsvd6 | .rsvd7 | .rsvd8 | .rsvd9 | .rsvdA | .rsvdB | .rsvdC | .rsvdD | .rsvdE | .rsvdF => true

/-- The reserved opcodes: defined, but "a host must not use them" (30_encoding.md R83). -/
def Instr.reserved : Instr → Bool
  | .nop | .pix _ _ _ _ _ | .send | .glut _ | .soff _ _ => false
  | .rsvd5 | .rsvd6 | .rsvd7 | .rsvd8 | .rsvd9 | .rsvdA | .rsvdB | .rsvdC | .rsvdD | .rsvdE | .rsvdF => true

/-- A number is a command word when it has no bit above bit 67 (30_encoding.md R75). -/
def isCommandWord (w : Nat) : Bool := w < 2 ^ 68

/-- Building the hardware from two integers: a refusal by name, or the configuration (00_scope.md R8). -/
def Config.build (w h : Int) : Except ConfigError Config :=
  match hc : checkConfig w h with
  | some e => .error e
  | none =>
    .ok { width := w.toNat
          height := h.toNat
          legal := by
            have hw : ¬ (w ≤ 0 ∨ h ≤ 0) := by
              intro hle
              simp [checkConfig, hle] at hc
            have hw' : (w.toNat : Int) = w := by omega
            have hh' : (h.toNat : Int) = h := by omega
            rw [hw', hh', hc] }

end Sys2Proof
end

