-- ==== Sys2Proof/Decode.lean ====
section
/-! DEFINITION. The command word's fields, the decoder and the encoder (30_encoding.md R76 to R82, R89). -/
namespace Sys2Proof

/-! The fields of format CMD, `cmd = {op, x, y, pix}` (R76), and of the pixel word (R78, R80). -/

def CmdWord.op (w : CmdWord) : BitVec 4 := w.extractLsb' 64 4
def CmdWord.x (w : CmdWord) : Coord := w.extractLsb' 48 16
def CmdWord.y (w : CmdWord) : Coord := w.extractLsb' 32 16
def CmdWord.pix (w : CmdWord) : PixelWord := w.extractLsb' 0 32

/-- The raw red channel, `pix[23:16]`. -/
def PixelWord.red (p : PixelWord) : Byte := p.extractLsb' 16 8
/-- The raw green channel, `pix[15:8]`. -/
def PixelWord.green (p : PixelWord) : Byte := p.extractLsb' 8 8
/-- The raw blue channel, `pix[7:0]`; for GLUT the table index (R80). -/
def PixelWord.blue (p : PixelWord) : Byte := p.extractLsb' 0 8

/-- The whole decoder (R82, R91): total, and blind to the fields an operation does not read (R81). -/
def decode (w : CmdWord) : Instr :=
  match (CmdWord.op w).toNat with
  | 0 => .nop
  | 1 => .pix (CmdWord.x w) (CmdWord.y w)
          (PixelWord.red (CmdWord.pix w)) (PixelWord.green (CmdWord.pix w)) (PixelWord.blue (CmdWord.pix w))
  | 2 => .send
  | 3 => .glut (PixelWord.blue (CmdWord.pix w))
  | 4 => .soff (CmdWord.x w) (CmdWord.y w)
  | 5 => .rsvd5
  | 6 => .rsvd6
  | 7 => .rsvd7
  | 8 => .rsvd8
  | 9 => .rsvd9
  | 10 => .rsvdA
  | 11 => .rsvdB
  | 12 => .rsvdC
  | 13 => .rsvdD
  | 14 => .rsvdE
  | _ => .rsvdF  -- 15, the only value left of a 4-bit field

/-- The bits of a word that its operation reads (R77, column "fields read", and `op` itself): two words decode to
the same command exactly when they agree on these (R81, R82). -/
def readMask (op : BitVec 4) : CmdWord :=
  match op.toNat with
  | 1 => 0xFFFFFFFFF00FFFFFF#68  -- PIX: op, x, y, pix[23:0]
  | 3 => 0xF00000000000000FF#68  -- GLUT: op, pix[7:0]
  | 4 => 0xFFFFFFFFF00000000#68  -- SOFF: op, x, y
  | _ => 0xF0000000000000000#68  -- NOP, SEND, reserved: op only

/-- A command word from its four fields, `{op, x, y, pix}` (R76). -/
def packCmd (op : BitVec 4) (x y : Coord) (p : PixelWord) : CmdWord := op ++ x ++ y ++ p

/-- A pixel word `0xAARRGGBB` with the ignored byte zero (R78). -/
def packPixel (r g b : Byte) : PixelWord := 0#8 ++ r ++ g ++ b

/-- The opcode of a command (R77). -/
def opcode : Instr → BitVec 4
  | .nop => 0x0
  | .pix _ _ _ _ _ => 0x1
  | .send => 0x2
  | .glut _ => 0x3
  | .soff _ _ => 0x4
  | .rsvd5 => 0x5
  | .rsvd6 => 0x6
  | .rsvd7 => 0x7
  | .rsvd8 => 0x8
  | .rsvd9 => 0x9
  | .rsvdA => 0xA
  | .rsvdB => 0xB
  | .rsvdC => 0xC
  | .rsvdD => 0xD
  | .rsvdE => 0xE
  | .rsvdF => 0xF

/-- The word of a command, zero in every ignored bit (R76, R77, R89). -/
def encode (i : Instr) : CmdWord :=
  match i with
  | .pix x y r g b => packCmd (opcode i) x y (packPixel r g b)
  | .glut k => packCmd (opcode i) 0 0 (packPixel 0 0 k)
  | .soff x y => packCmd (opcode i) x y 0
  | .nop | .send | .rsvd5 | .rsvd6 | .rsvd7 | .rsvd8 | .rsvd9 | .rsvdA | .rsvdB | .rsvdC | .rsvdD | .rsvdE
  | .rsvdF => packCmd (opcode i) 0 0 0

/-- The command read from the low `nbits` bits of `w`, numbered as the opcode table numbers them. A command is one
68-bit word (R75); a number with a bit above bit 67 is none (log 13). -/
def decodeTableWord (nbits w : Nat) : Option Instr :=
  if isCommandWord (w % 2 ^ nbits) then some (decode (BitVec.ofNat 68 (w % 2 ^ nbits))) else none

end Sys2Proof
end

