-- ==== Sys2Proof/Machine/State.lean ====
section
/-! DEFINITION. The state of the block and of its ports as plain data, and the state after reset. -/
namespace Sys2Proof.Machine

/-- `ENC_STATE` (10_state.md R24). -/
inductive EncState where
  | uninitialized
  | ready
  deriving DecidableEq, Repr

/-- The codes of port `rsp_code` (30_encoding.md R84). -/
inductive RspCode where
  | ok
  | transmissionError
  | coordError
  | illegalCommand
  deriving DecidableEq, Repr

/-- An output event: what a run lets its environment observe (00_scope.md R14). -/
inductive Output where
  | rsp (code : RspCode) (data : RspData)
  | byte (value : Byte) (last : Bool)
  deriving DecidableEq, Repr

/-- The two pins the sink drives at an edge (10_state.md R30, R33). -/
structure SinkPins where
  /-- `tx_ready` -/
  ready : Bool
  /-- `tx_fail` -/
  fail  : Bool
  deriving DecidableEq, Repr

/-- The bytes of `FRAME` written since the last reset, as (address, byte) pairs. An address not listed has not
been written: it has no entry, and a read of it takes a free value (Machine/Ops.lean, log 3, log 4). -/
abbrev Memory := List Host.Cell

/-- The machine: the state tuple of 10_state.md R28, the constants of its configuration, its input ports as lists of
what they will show, its output events so far, and the counters of the free values. -/
structure State where
  /-- `W`, `H`, `MAP_POLICY`: constants, read by the operations and written by none (R6, R28; log 1). -/
  cfg : Config
  /-- `ENC_STATE` (R24). -/
  encState : EncState
  /-- `FRAME` (R25), the bytes written since the last reset. -/
  frame : Memory
  /-- `TX_ACTIVE` (R26). -/
  txActive : Bool
  /-- `TX_IDX` (R26); without meaning while `txActive` is false (U8). -/
  txIdx : FrameIdx
  /-- Which arbitrary contents the unwritten bytes of `FRAME` have (U1): the model's own counter (log 3). -/
  frameDraw : Nat
  /-- Which arbitrary value the next meaningless `TX_IDX` takes (U8): the model's own counter (log 5). -/
  idxDraw : Nat
  /-- Port `cmd`: the words the host presents and holds, in order (R31, R208; log 6). -/
  cmdQueue : List CmdWord
  /-- Ports `tx_ready`, `tx_fail` at the coming edges with a byte on offer; past its end both are 0 (R33; log 6). -/
  sinkPins : List SinkPins
  /-- Port `rst` at the coming edges: the edge of each step and, after it, the edge of the response the step produces
  (R32, R197); past its end it is 0 (R196; log 6, log 9). -/
  rstPins : List Bool
  /-- The output events so far, oldest first (R14; log 8). -/
  outs : List Output
  deriving DecidableEq, Repr

/-- Why the machine stops. -/
inductive Fault where
  /-- An access to a frame address at or above `FLEN`, which does not exist (00_scope.md R16, 10_state.md R25).
  Raised by `Machine.readByte` and `Machine.memWrite`; by a step only in a state with `TX_ACTIVE = 1` and
  `TX_IDX ≥ FLEN`, which no run from reset reaches. SAFE (log 10). -/
  | frameAddress
  deriving DecidableEq, Repr

/-- Why a command has no meaning. -/
inductive Refusal where
  /-- A command that has no meaning in the model yet; raised by `exec` alone. SAFE. No command is left so. -/
  | notModelled (mnemonic : String)
  deriving DecidableEq, Repr

/-- The state after a reset step, for a configuration (10_state.md R36): `ENC_STATE`, `TX_ACTIVE` and `TX_IDX` as the
spec gives them, no byte of `FRAME` written, nothing at the ports yet (log 3, log 5, log 6, log 8). -/
def State.resetOf (c : Config) : State where
  cfg := c
  encState := .uninitialized
  frame := []
  txActive := false
  txIdx := 0
  frameDraw := 0
  idxDraw := 0
  cmdQueue := []
  sinkPins := []
  rstPins := []
  outs := []

/-- The machine right after reset, in the configuration of the source's 2 by 2 scenario (95_test_vectors.md S7;
DESIGN CHOICE, log 2): the spec leaves `W` and `H` open. -/
def State.reset : State :=
  State.resetOf { width := 2, height := 2 }

end Sys2Proof.Machine
end

