-- ==== Sys2Proof/Machine/Flags.lean ====
section
/-! DEFINITION. The block has no flags (10_state.md R22). What stands for them: the response codes, the errors they
report, and the two status pins (30_encoding.md R84, 60_exceptions.md R165, 10_state.md R34). -/
namespace Sys2Proof.Machine

/-- The value on port `rsp_code` (30_encoding.md R84). -/
def RspCode.bits : RspCode → BitVec 2
  | .ok => 0
  | .transmissionError => 1
  | .coordError => 2
  | .illegalCommand => 3

/-- The errors that have a run-time form (60_exceptions.md R165). SourceBoundsError has none here (R170). -/
inductive BlockError where
  | transmissionError
  | coordError
  | illegalCommand
  deriving DecidableEq, Repr

/-- `code_of` (60_exceptions.md R173). -/
def BlockError.code : BlockError → RspCode
  | .transmissionError => .transmissionError
  | .coordError => .coordError
  | .illegalCommand => .illegalCommand

/-- Pin `enc_ready` (10_state.md R34; log 14). -/
def State.encReady (s : State) : Bool := s.encState = .ready

/-- Pin `tx_busy`, equal to `TX_ACTIVE` (10_state.md R30, R34). -/
def State.txBusy (s : State) : Bool := s.txActive

end Sys2Proof.Machine
end

