-- ==== Sys2Proof/Machine/Ops.lean ====
section
/-! DEFINITION. The named operations: the frame memory byte by byte (00_scope.md R16), the output events,
raising an error (60_exceptions.md R173), the acceptance of a command (10_state.md R31), and one edge of `rst`. -/
namespace Sys2Proof.Machine

/-! The memory as data. -/

/-- The byte written at an address, `none` where nothing has been written. -/
def Memory.read : Memory → Nat → Option Byte
  | [], _ => none
  | (b, v) :: m, a => if a = b then some v else Memory.read m a

/-- The memory with one byte written, in address order. -/
def Memory.write : Memory → Nat → Byte → Memory
  | [], a, v => [(a, v)]
  | (b, u) :: m, a, v =>
    if a < b then (a, v) :: (b, u) :: m
    else if a = b then (a, v) :: m
    else (b, u) :: Memory.write m a v

/-- Bytes written at ascending addresses. -/
def Memory.writeAll : Memory → Nat → List Byte → Memory
  | m, _, [] => m
  | m, a, v :: vs => Memory.writeAll (Memory.write m a v) (a + 1) vs

/-- The canonical form: addresses strictly rising. An unlisted address reads as no value, so no entry can equal it. -/
abbrev Memory.wf (m : Memory) : Prop := m.Pairwise (fun p q => p.1 < q.1)

/-! `FRAME` (10_state.md R25). -/

/-- `FRAME[a]`: the byte last written since the reset, and before that the arbitrary value the reset left (U1). -/
def State.frameByte (s : State) (a : Nat) : Byte :=
  (Memory.read s.frame a).getD (Config.freeFrameByte s.frameDraw a)

/-- `MemRead(a, 1)` (00_scope.md R16), the only width a rule reads (20_memory.md R55). -/
def readByte (s : State) (a : Nat) : Except Fault Byte :=
  if a < s.cfg.frameLen then .ok (s.frameByte a) else .error .frameAddress

/-- Bytes stored at ascending addresses of `FRAME`. -/
def State.store (s : State) (a : Nat) (bs : List Byte) : State :=
  { s with frame := Memory.writeAll s.frame a bs }

/-- `MemWrite(a, n, bs)` (00_scope.md R16). -/
def memWrite (s : State) (a : Nat) (bs : List Byte) : Except Fault State :=
  if a + bs.length ≤ s.cfg.frameLen then .ok (s.store a bs) else .error .frameAddress

/-! Output events (00_scope.md R14, R16). -/

/-- `respond(code, data)`. -/
def State.respond (s : State) (code : RspCode) (data : RspData) : State :=
  { s with outs := s.outs ++ [.rsp code data] }

/-- The event is a response; otherwise it is a byte the sink has accepted. -/
def Output.isResponse : Output → Bool
  | .rsp _ _ => true
  | .byte _ _ => false

/-- The events put out between `s` and `t` (00_scope.md R14). -/
def newOuts (s t : State) : List Output := t.outs.drop s.outs.length

/-- The responses among the events after the first `n` are withdrawn; the bytes stay with the sink
(70_reset_and_hazards.md R197). -/
def State.withdrawResponses (s : State) (n : Nat) : State :=
  { s with outs := s.outs.take n ++ (s.outs.drop n).filter fun e => !e.isResponse }

/-- `emit(b, last)`. -/
def State.emit (s : State) (b : Byte) (last : Bool) : State :=
  { s with outs := s.outs ++ [.byte b last] }

/-- `raise E(0)` (60_exceptions.md R173): the one response `(code_of(E), 0)` and nothing else. Nothing is saved and
nothing vectored, so there is no return operation (R180). -/
def State.raise (s : State) (e : BlockError) : State :=
  s.respond e.code 0

/-! The input ports. -/

/-- `rst` at the coming edge (70_reset_and_hazards.md R196). -/
def State.rst (s : State) : Bool := s.rstPins.headD false

/-- One edge has passed. -/
def State.tick (s : State) : State := { s with rstPins := s.rstPins.tail }

/-- `rst` at the edge after the coming one: the edge of the response, where the step produces one (10_state.md R32). -/
def State.rstAtResponse (s : State) : Bool := s.tick.rst

/-- Every command's "Accepted when: `ENC_STATE = Ready` and `TX_ACTIVE = 0`" (10_state.md R31). -/
def State.accepts (s : State) : Bool := s.encState = .ready && !s.txActive

/-- A command's effect when the block accepts it; otherwise the command waits and nothing changes (10_state.md R31,
log 7). -/
def State.ifAccepted (s : State) (effect : Host.Outcome State Fault Refusal) : Host.Outcome State Fault Refusal :=
  if s.accepts then effect else .next s

/-- What the sink's pins say of the byte on offer (10_state.md R33). -/
inductive SinkAnswer where
  | accept
  | fail
  | wait
  deriving DecidableEq, Repr

/-- The sink's pins have been sampled. -/
def State.takeAnswer (s : State) : State := { s with sinkPins := s.sinkPins.tail }

/-- `fail` wins over `accept` (10_state.md R33, 60_exceptions.md R178). -/
def SinkPins.answer (p : SinkPins) : SinkAnswer :=
  if p.fail then .fail else if p.ready then .accept else .wait

/-! The sequencing state (10_state.md R21, R24, R26). -/

/-- `ENC_STATE <- Ready` (42_frame_encoder.md R135). -/
def State.becomeReady (s : State) : State := { s with encState := .ready }

/-- `TX_IDX <- 0`, `TX_ACTIVE <- 1` (42_frame_encoder.md R145). -/
def State.startTransmission (s : State) : State := { s with txIdx := 0, txActive := true }

/-- `TX_IDX <- TX_IDX + 1` (42_frame_encoder.md R150). -/
def State.advance (s : State) : State := { s with txIdx := s.txIdx + 1 }

/-- The end of a transmission: `TX_ACTIVE <- 0`, and `TX_IDX` loses its meaning (42_frame_encoder.md R150, U8;
log 5). -/
def State.endTransmission (s : State) : State :=
  { s with txActive := false, txIdx := Config.freeTxIdx s.idxDraw, idxDraw := s.idxDraw + 1 }

end Sys2Proof.Machine
end

