-- ==== Sys2Proof/Machine/Operands.lean ====
section
/-! DEFINITION. The operand forms: display coordinates, the serpentine offset function of unit SMAP, and the one
addressing mode (30_encoding.md R79, 41_serpentine_mapper.md R120, 42_frame_encoder.md R159). -/
namespace Sys2Proof.Machine

/-- A coordinate pair lies in the display, compared as natural numbers (30_encoding.md R79). -/
def inDisplay (c : Config) (x y : Coord) : Bool := x.toNat < c.width && y.toNat < c.height

/-- The place of row `y` along its column: even columns run top to bottom, odd ones bottom to top
(41_serpentine_mapper.md R120, R122). It is its own inverse (R124). -/
def alongColumn (h x y : Nat) : Nat := if x % 2 = 0 then y else h - 1 - y

/-- `soff(x, y)` for display height `h`, over the natural numbers (41_serpentine_mapper.md R120, R121). -/
def soff (h x y : Nat) : Nat := 3 * (x * h + alongColumn h x y)

/-- The coordinate that owns slot `k` (41_serpentine_mapper.md R124). -/
def slotOwner (h k : Nat) : Nat × Nat := (k / h, alongColumn h (k / h) (k % h))

/-- The payload offset of a coordinate under the configuration's mapping policy (00_scope.md R10). -/
def payloadOffset (c : Config) (x y : Coord) : Nat :=
  match c.policy with
  | .serpentineColumnMajor => soff c.height x.toNat y.toNat

/-- The frame address of a pixel's first byte, `4 + soff(x, y)` (42_frame_encoder.md R159). -/
def pixAddress (c : Config) (x y : Coord) : Nat := 4 + payloadOffset c x y

end Sys2Proof.Machine
end

