-- ==== Sys2Proof/Machine/Encoder.lean ====
section
/-! DEFINITION. Unit OENC: INIT, NOP, PIX, SEND and the TX step (42_frame_encoder.md). -/
namespace Sys2Proof.Machine

/-- The OPC header: channel 0, command 0, and the payload length, high byte first (20_memory.md R51, R53). -/
def headerBytes (c : Config) : List Byte :=
  let plen := BitVec.ofNat 16 c.payloadLen
  [0x00, 0x00, plen.extractLsb' 8 8, plen.extractLsb' 0 8]

/-- INIT (42_frame_encoder.md R135): write the header and make the encoder Ready. -/
def initStep (s : State) : Host.Outcome State Fault Refusal :=
  match memWrite s 0 (headerBytes s.cfg) with
  | .ok t => .next t.becomeReady
  | .error f => .fault f

/-- NOP (42_frame_encoder.md R138). -/
def execNop (s : State) : Host.Outcome State Fault Refusal :=
  s.ifAccepted (.next (s.respond .ok 0))

/-- PIX (42_frame_encoder.md R140, R141): gamma-correct one pixel and write it to its slot, R first. -/
def execPix (x y : Coord) (r g b : Byte) (s : State) : Host.Outcome State Fault Refusal :=
  s.ifAccepted <|
    if inDisplay s.cfg x y then
      match memWrite s (pixAddress s.cfg x y) [gamma r, gamma g, gamma b] with
      | .ok t => .next (t.respond .ok 0)
      | .error f => .fault f
    else .next (s.raise .coordError)

/-- SEND (42_frame_encoder.md R145): start the transmission; its response is the TX step's (R150). -/
def execSend (s : State) : Host.Outcome State Fault Refusal :=
  s.ifAccepted (.next s.startTransmission)

/-- `TX_IDX` stands at the last byte of the frame, so `tx_last = 1` (10_state.md R33). -/
def State.atLastByte (s : State) : Bool := s.txIdx.toNat + 1 = s.cfg.frameLen

/-- The sink accepts the byte on offer (42_frame_encoder.md R150, `accept`). -/
def txAccept (s : State) : Host.Outcome State Fault Refusal :=
  match readByte s s.txIdx.toNat with
  | .ok b =>
    if s.atLastByte then .next (((s.emit b true).endTransmission).respond .ok 0)
    else .next (s.emit b false).advance
  | .error f => .fault f

/-- The TX step (42_frame_encoder.md R150) on the sink's pins; a sink that shows neither pin leaves the byte on offer,
for ever if it never answers (70_reset_and_hazards.md R210). -/
def txStep (s : State) : Host.Outcome State Fault Refusal :=
  match s.sinkPins with
  | [] => .next s
  | p :: _ =>
    match p.answer with
    | .fail => .next (s.takeAnswer.endTransmission.raise .transmissionError)
    | .accept => txAccept s.takeAnswer
    | .wait => .next s.takeAnswer

end Sys2Proof.Machine
end

