-- ==== Sys2Proof/Machine/Reserved.lean ====
section
/-! DEFINITION. The eleven reserved opcodes (42_frame_encoder.md R155). -/
namespace Sys2Proof.Machine

/-- A command with a reserved opcode is accepted like any other, changes no state and is answered with IllegalCommand
(30_encoding.md R83, 42_frame_encoder.md R155). -/
def execReserved (s : State) : Host.Outcome State Fault Refusal :=
  s.ifAccepted (.next (s.raise .illegalCommand))

/-- RSVD_5 (42_frame_encoder.md R155). -/
def execRsvd5 (s : State) : Host.Outcome State Fault Refusal := execReserved s

/-- RSVD_6 (42_frame_encoder.md R155). -/
def execRsvd6 (s : State) : Host.Outcome State Fault Refusal := execReserved s

/-- RSVD_7 (42_frame_encoder.md R155). -/
def execRsvd7 (s : State) : Host.Outcome State Fault Refusal := execReserved s

/-- RSVD_8 (42_frame_encoder.md R155). -/
def execRsvd8 (s : State) : Host.Outcome State Fault Refusal := execReserved s

/-- RSVD_9 (42_frame_encoder.md R155). -/
def execRsvd9 (s : State) : Host.Outcome State Fault Refusal := execReserved s

/-- RSVD_A (42_frame_encoder.md R155). -/
def execRsvdA (s : State) : Host.Outcome State Fault Refusal := execReserved s

/-- RSVD_B (42_frame_encoder.md R155). -/
def execRsvdB (s : State) : Host.Outcome State Fault Refusal := execReserved s

/-- RSVD_C (42_frame_encoder.md R155). -/
def execRsvdC (s : State) : Host.Outcome State Fault Refusal := execReserved s

/-- RSVD_D (42_frame_encoder.md R155). -/
def execRsvdD (s : State) : Host.Outcome State Fault Refusal := execReserved s

/-- RSVD_E (42_frame_encoder.md R155). -/
def execRsvdE (s : State) : Host.Outcome State Fault Refusal := execReserved s

/-- RSVD_F (42_frame_encoder.md R155). -/
def execRsvdF (s : State) : Host.Outcome State Fault Refusal := execReserved s

end Sys2Proof.Machine
end

