-- ==== Sys2Proof/Machine/Serpentine.lean ====
section
/-! DEFINITION. Unit SMAP's command (41_serpentine_mapper.md R126). -/
namespace Sys2Proof.Machine

/-- SOFF (41_serpentine_mapper.md R126): compute the serpentine offset of one coordinate. -/
def execSoff (x y : Coord) (s : State) : Host.Outcome State Fault Refusal :=
  s.ifAccepted <|
    if inDisplay s.cfg x y then .next (s.respond .ok (BitVec.ofNat 16 (payloadOffset s.cfg x y)))
    else .next (s.raise .coordError)

end Sys2Proof.Machine
end

