-- ==== Sys2Proof/Machine/Schedule.lean ====
section
/-! DEFINITION. Which step the block takes next (42_frame_encoder.md R161), and the reset step
(70_reset_and_hazards.md R196). -/
namespace Sys2Proof.Machine

/-- The labels of the step relation (42_frame_encoder.md R161), and waiting for a command. -/
inductive Action where
  | reset
  | init
  | tx
  | cmd (w : CmdWord)
  | idle
  deriving DecidableEq, Repr

/-- The step enabled now: reset wins (60_exceptions.md R178); INIT is the only step of an Uninitialized block
(42_frame_encoder.md R135); no command is accepted while a transmission is in flight (10_state.md R31); otherwise the
next command the host presents, and with none presented the block waits (60_exceptions.md R191). -/
def State.action (s : State) : Action :=
  if s.rst then .reset
  else if s.encState = .uninitialized then .init
  else if s.txActive then .tx
  else match s.cmdQueue with
    | [] => .idle
    | w :: _ => .cmd w

/-- The reset step (70_reset_and_hazards.md R196): the sequencing state at its reset values and fresh arbitrary
contents for every byte of `FRAME` (U1, log 3). Nothing is output, no command is accepted and no byte transferred at its
edge (R197). -/
def takeReset (s : State) : State :=
  { s with
    encState := .uninitialized
    frame := []
    txActive := false
    txIdx := 0
    frameDraw := s.frameDraw + 1 }

/-- The edge of the response, if an operation has led from `s` to `t` and answered. It comes after the edge of the
operation (10_state.md R32), and `rst` is sampled at it too: a reset there replaces the response, and the answered
command keeps no effect but the bytes the sink has accepted (60_exceptions.md R178, 70_reset_and_hazards.md R197). -/
def responseEdge (s t : State) : State :=
  if (newOuts s t).any Output.isResponse then
    if t.rst then takeReset (t.tick.withdrawResponses s.outs.length) else t.tick
  else t

/-- The command word leaves the port at its transfer (10_state.md R30, R31). -/
def State.takeCommand (s : State) : State := { s with cmdQueue := s.cmdQueue.tail }

/-- The state in which the next step accepts the command `w`, reached from `s` without running a command: INIT's effect
if it has not happened, no transmission in flight, no reset at the command's edge or its response's, and `w` presented
first (log 11). -/
def presentCommand (s : State) (w : CmdWord) : State :=
  let t :=
    if s.encState = .uninitialized then
      match initStep s with
      | .next t => t
      | .fault _ | .refused _ => s
    else s
  { t with txActive := false, rstPins := false :: false :: t.rstPins, cmdQueue := w :: t.cmdQueue }

end Sys2Proof.Machine
end

