-- ==== Sys2Proof/Machine/Step.lean ====
section
/-! DEFINITION. One step of the block (42_frame_encoder.md R161). -/
namespace Sys2Proof.Machine

/-- The operation of the step that is enabled (42_frame_encoder.md R161); its edge uses up one level of `rst`. -/
def operate (s : State) : Host.Outcome State Fault Refusal :=
  match s.action with
  | .reset => .next (takeReset s.tick)
  | .init => initStep s.tick
  | .tx => txStep s.tick
  | .cmd w => exec (decode w) s.tick.takeCommand
  | .idle => .next s.tick

/-- One step: the enabled operation, and then the edge of its response (42_frame_encoder.md R161, 10_state.md R32). -/
def step (s : State) : Host.Outcome State Fault Refusal :=
  match operate s with
  | .next t => .next (responseEdge s t)
  | .fault f => .fault f
  | .refused r => .refused r

/-- `s` with the command word `w` presented so that the very next step accepts and runs it (log 11). A command is one
68-bit word, so the low 68 bits are the whole instruction whatever `nbits` is. -/
def State.withFetchWord (s : State) (nbits w : Nat) : State :=
  presentCommand s (BitVec.ofNat 68 (w % 2 ^ nbits))

end Sys2Proof.Machine
end

