-- ==== Sys2Proof/Machine/Assembler.lean ====
section
/-! DEFINITION. The assembler forms and the pseudo-operations (30_encoding.md R89, R90), as syntax trees. -/
namespace Sys2Proof.Machine

/-- A line of assembler: a mnemonic and its operands, which are numbers (30_encoding.md R89). -/
inductive AsmLine where
  | nop
  | pix (x y p : Nat)
  | send
  | glut (i : Nat)
  | soff (x y : Nat)
  deriving DecidableEq, Repr

/-- Each operand fits its field (30_encoding.md R76, R89). -/
def AsmLine.wellFormed : AsmLine → Bool
  | .nop => true
  | .pix x y p => x < 2 ^ 16 && y < 2 ^ 16 && p < 2 ^ 32
  | .send => true
  | .glut i => i < 2 ^ 8
  | .soff x y => x < 2 ^ 16 && y < 2 ^ 16

/-- The command word of a line: zero in every ignored bit, except that PIX copies all 32 bits of `p`
(30_encoding.md R89). -/
def AsmLine.word : AsmLine → CmdWord
  | .nop => packCmd 0x0 0 0 0
  | .pix x y p => packCmd 0x1 (BitVec.ofNat 16 x) (BitVec.ofNat 16 y) (BitVec.ofNat 32 p)
  | .send => packCmd 0x2 0 0 0
  | .glut i => packCmd 0x3 0 0 ((BitVec.ofNat 8 i).setWidth 32)
  | .soff x y => packCmd 0x4 (BitVec.ofNat 16 x) (BitVec.ofNat 16 y) 0

/-- The operation a line names: `PIX x, y, p` reads the low 24 bits of `p` (30_encoding.md R78, R89). -/
def AsmLine.operation : AsmLine → Instr
  | .nop => .nop
  | .pix x y p =>
    .pix (BitVec.ofNat 16 x) (BitVec.ofNat 16 y)
      (BitVec.ofNat 8 (p / 2 ^ 16)) (BitVec.ofNat 8 (p / 2 ^ 8)) (BitVec.ofNat 8 p)
  | .send => .send
  | .glut i => .glut (BitVec.ofNat 8 i)
  | .soff x y => .soff (BitVec.ofNat 16 x) (BitVec.ofNat 16 y)

/-- ENCODE_FRAME (30_encoding.md R90): columns ascending, and rows ascending within a column. -/
def encodeFrame (c : Config) (buf : Nat → Nat → Nat) : List AsmLine :=
  (List.range c.width).flatMap fun x => (List.range c.height).map fun y => .pix x y (buf x y)

/-- FILL (30_encoding.md R90). -/
def fillFrame (c : Config) (p : Nat) : List AsmLine := encodeFrame c fun _ _ => p

/-- SEND_FRAME (30_encoding.md R90). -/
def sendFrame (c : Config) (buf : Nat → Nat → Nat) : List AsmLine := encodeFrame c buf ++ [.send]

end Sys2Proof.Machine
end

