-- ==== Sys2Proof/Machine/Ports.lean ====
section
/-! DEFINITION. The output pins as functions of the state (10_state.md R30 to R34). A data pin that is not valid has
no value here: it carries no information (93_implementation_defined.md U4). `enc_ready` and `tx_busy` stand in
Machine/Flags.lean. -/
namespace Sys2Proof.Machine

/-- Pin `cmd_ready` (10_state.md R31). A step ends at the edge of the response it produces (log 9), so none is
outstanding between steps. -/
def State.cmdReady (s : State) : Bool := !s.rst && s.accepts

/-- Pin `tx_valid` (10_state.md R33). -/
def State.txValid (s : State) : Bool := !s.rst && s.txActive

/-- Pins `tx_data` and `tx_last` while `tx_valid = 1` (10_state.md R33). -/
def State.txOffer (s : State) : Option (Byte × Bool) :=
  if s.txValid then some (s.frameByte s.txIdx.toNat, s.atLastByte) else none

/-- Pins `rsp_code` and `rsp_data` of the response a step produces; `none` is `rsp_valid = 0` (10_state.md R32). -/
def rspPins (s t : State) : Option (BitVec 2 × RspData) :=
  (newOuts s t).findSome? fun e =>
    match e with
    | .rsp c d => some (c.bits, d)
    | .byte _ _ => none

end Sys2Proof.Machine
end

