-- ==== Sys2Proof/Safety.lean ====
section
/-! DEFINITION. What claims about the block are stated in: the invariant of 10_state.md R29, the step relation of
42_frame_encoder.md R161 over what a state shows, runs, and what a sequence of commands asks for. -/
namespace Sys2Proof.Safety

open Sys2Proof.Machine

/-- The header bytes as 20_memory.md R51 lists them: 0, 0, `PLEN[15:8]`, `PLEN[7:0]`. -/
def HeaderHeld (s : State) : Prop :=
  s.frameByte 0 = 0 ∧ s.frameByte 1 = 0 ∧
  (s.frameByte 2).toNat = s.cfg.payloadLen / 256 ∧ (s.frameByte 3).toNat = s.cfg.payloadLen % 256

/-- 10_state.md R29, and the canonical form of the list of written bytes. -/
structure Inv (s : State) : Prop where
  /-- R29 (a) -/
  sending_ready : s.txActive = true → s.encState = .ready
  /-- R29 (b) -/
  sending_inside : s.txActive = true → s.txIdx.toNat < s.cfg.frameLen
  /-- R29 (c) -/
  header : s.encState = .ready → HeaderHeld s
  /-- R29 (d): no byte is held outside the frame buffer. -/
  bounded : ∀ p ∈ s.frame, p.1 < s.cfg.frameLen
  canonical : Memory.wf s.frame

/-- `k` steps of the machine. -/
def run (k : Nat) (s : State) : Host.Outcome State Fault Refusal := Host.Core.run Sys2Proof.core k s

/-- No reset comes at the edges `State.rstPins` still describes; after them `rst` is 0. -/
def NoReset (s : State) : Prop := ∀ b ∈ s.rstPins, b = false

/-! The step relation of 42_frame_encoder.md R161. -/

/-- What R161 says of a state: `ENC_STATE`, `FRAME`, and `TX_IDX` where `TX_ACTIVE = 1` ("The value of `TX_IDX` when
`TX_ACTIVE = 0` is immaterial, and a model may drop it from such states"). -/
structure View where
  enc     : EncState
  frame   : Nat → Byte
  sending : Option Nat

/-- The view of a state. -/
def view (s : State) : View where
  enc := s.encState
  frame := s.frameByte
  sending := if s.txActive then some s.txIdx.toNat else none

/-- The labels of R161. -/
inductive Label where
  | reset
  | init
  | cmd (w : CmdWord)
  | txAccept
  | txFail
  deriving DecidableEq, Repr

/-- `F[a..a+n-1 := bs]`. -/
def withBytes (f : Nat → Byte) (a : Nat) (bs : List Byte) : Nat → Byte :=
  fun k => if a ≤ k ∧ k < a + bs.length then bs.getD (k - a) 0 else f k

/-- `PLEN_hi` and `PLEN_lo` after the two zero bytes. -/
def headerOf (c : Config) : List Byte :=
  [0, 0, BitVec.ofNat 8 (c.payloadLen / 256), BitVec.ofNat 8 (c.payloadLen % 256)]

/-- The labelled transition system of R161, line by line, in the configuration `c`. -/
inductive StepRel (c : Config) : View → Label → List Output → View → Prop where
  | reset (v : View) (f : Nat → Byte) : StepRel c v .reset [] ⟨.uninitialized, f, none⟩
  | init (f : Nat → Byte) :
      StepRel c ⟨.uninitialized, f, none⟩ .init [] ⟨.ready, withBytes f 0 (headerOf c), none⟩
  | nop (f : Nat → Byte) (w : CmdWord) : decode w = .nop →
      StepRel c ⟨.ready, f, none⟩ (.cmd w) [.rsp .ok 0] ⟨.ready, f, none⟩
  | glut (f : Nat → Byte) (w : CmdWord) (i : Byte) : decode w = .glut i →
      StepRel c ⟨.ready, f, none⟩ (.cmd w) [.rsp .ok (BitVec.ofNat 16 (gamma i).toNat)] ⟨.ready, f, none⟩
  | soffInside (f : Nat → Byte) (w : CmdWord) (x y : Coord) : decode w = .soff x y →
      x.toNat < c.width → y.toNat < c.height →
      StepRel c ⟨.ready, f, none⟩ (.cmd w) [.rsp .ok (BitVec.ofNat 16 (soff c.height x.toNat y.toNat))]
        ⟨.ready, f, none⟩
  | soffOutside (f : Nat → Byte) (w : CmdWord) (x y : Coord) : decode w = .soff x y →
      ¬(x.toNat < c.width ∧ y.toNat < c.height) →
      StepRel c ⟨.ready, f, none⟩ (.cmd w) [.rsp .coordError 0] ⟨.ready, f, none⟩
  | pixInside (f : Nat → Byte) (w : CmdWord) (x y : Coord) (r g b : Byte) : decode w = .pix x y r g b →
      x.toNat < c.width → y.toNat < c.height →
      StepRel c ⟨.ready, f, none⟩ (.cmd w) [.rsp .ok 0]
        ⟨.ready, withBytes f (4 + soff c.height x.toNat y.toNat) [gamma r, gamma g, gamma b], none⟩
  | pixOutside (f : Nat → Byte) (w : CmdWord) (x y : Coord) (r g b : Byte) : decode w = .pix x y r g b →
      ¬(x.toNat < c.width ∧ y.toNat < c.height) →
      StepRel c ⟨.ready, f, none⟩ (.cmd w) [.rsp .coordError 0] ⟨.ready, f, none⟩
  | send (f : Nat → Byte) (w : CmdWord) : decode w = .send →
      StepRel c ⟨.ready, f, none⟩ (.cmd w) [] ⟨.ready, f, some 0⟩
  | reserved (f : Nat → Byte) (w : CmdWord) : 5 ≤ (CmdWord.op w).toNat →
      StepRel c ⟨.ready, f, none⟩ (.cmd w) [.rsp .illegalCommand 0] ⟨.ready, f, none⟩
  | acceptMore (f : Nat → Byte) (k : Nat) : k + 1 < c.frameLen →
      StepRel c ⟨.ready, f, some k⟩ .txAccept [.byte (f k) false] ⟨.ready, f, some (k + 1)⟩
  | acceptLast (f : Nat → Byte) (k : Nat) : k + 1 = c.frameLen →
      StepRel c ⟨.ready, f, some k⟩ .txAccept [.byte (f k) true, .rsp .ok 0] ⟨.ready, f, none⟩
  | fail (f : Nat → Byte) (k : Nat) :
      StepRel c ⟨.ready, f, some k⟩ .txFail [.rsp .transmissionError 0] ⟨.ready, f, none⟩

/-- What the sink answers at a step in which a byte is on offer: past the end of `State.sinkPins` neither pin shows. -/
def sinkAnswer (s : State) : SinkAnswer := (s.sinkPins.head?.map SinkPins.answer).getD .wait

/-- The step's operation answers a command, so that a response is due at the edge after it: every accepted command but
SEND, and the end of a transmission (10_state.md R32, 42_frame_encoder.md R150). -/
def responseDue (s : State) : Bool :=
  match s.action with
  | .cmd w => decode w ≠ .send
  | .tx =>
    match sinkAnswer s with
    | .fail => true
    | .accept => s.atLastByte
    | .wait => false
  | .reset | .init | .idle => false

/-- The step takes in a reset: at its own edge, or at the edge of the response it would produce
(70_reset_and_hazards.md R197). -/
def takesReset (s : State) : Bool := s.rst || (responseDue s && s.rstAtResponse)

/-- The label of the operation a state takes next; `none` where the block only waits, for the host or for the sink. -/
def label (s : State) : Option Label :=
  match s.action with
  | .reset => some .reset
  | .init => some .init
  | .cmd w => some (.cmd w)
  | .idle => none
  | .tx =>
    match sinkAnswer s with
    | .accept => some .txAccept
    | .fail => some .txFail
    | .wait => none

/-! Frames and transmissions. -/

/-- The three bytes of a coordinate's slot hold the corrected channels of a pixel (42_frame_encoder.md R142). -/
def SlotHolds (s : State) (x y : Coord) (p : Byte × Byte × Byte) : Prop :=
  s.frameByte (pixAddress s.cfg x y) = gamma p.1 ∧
  s.frameByte (pixAddress s.cfg x y + 1) = gamma p.2.1 ∧
  s.frameByte (pixAddress s.cfg x y + 2) = gamma p.2.2

/-- The channels a command gives the coordinate `(x, y)`, if it is a PIX for it. -/
def pixelOf (x y : Coord) (w : CmdWord) : Option (Byte × Byte × Byte) :=
  match decode w with
  | .pix x' y' r g b => if x' = x ∧ y' = y then some (r, g, b) else none
  | _ => none

/-- The channels of the last PIX for the coordinate `(x, y)` in a sequence of commands. -/
def lastPixel (x y : Coord) : List CmdWord → Option (Byte × Byte × Byte)
  | [] => none
  | w :: ws => (lastPixel x y ws).or (pixelOf x y w)

/-- The wire message of an image `buf` of packed pixels, as bytes: the header, and slot by slot the corrected channels
of the pixel that owns the slot (30_encoding.md R86, 41_serpentine_mapper.md R124, 42_frame_encoder.md R142). -/
def wireMessage (c : Config) (buf : Nat → Nat → Nat) : List Byte :=
  headerOf c ++ (List.range c.pixels).flatMap fun k =>
    let p := buf (slotOwner c.height k).1 (slotOwner c.height k).2
    [gamma (BitVec.ofNat 8 (p / 2 ^ 16)), gamma (BitVec.ofNat 8 (p / 2 ^ 8)), gamma (BitVec.ofNat 8 p)]

/-- Bytes as the sink receives them in one transmission: only the last is marked (30_encoding.md R87). -/
def asSent (bs : List Byte) : List Output :=
  bs.zipIdx.map fun p => .byte p.1 (p.2 + 1 == bs.length)

/-- How many of the answers accept. -/
def acceptCount (ps : List SinkPins) : Nat := ps.countP fun p => p.answer = .accept

end Sys2Proof.Safety
end

