-- ==== Sys2Proof/Certificates/Slice0/Obligations.lean ====
section
/-! DEFINITION. The statements about the block that the provers settle. Each docstring names the rule of spec/ it comes
from, and the log entry where a clause is the model's own. -/

open Sys2Proof Sys2Proof.Machine Sys2Proof.Safety

/-! Encodings (30_encoding.md). -/

/-- R82: the decoder, value by value of `cmd[67:64]`. -/
def Obligations.DecoderFollowsOpcodeMap : Prop :=
  ∀ w : CmdWord,
    (w.extractLsb' 64 4 = 0x0 → decode w = .nop) ∧
    (w.extractLsb' 64 4 = 0x1 → decode w =
      .pix (w.extractLsb' 48 16) (w.extractLsb' 32 16) (w.extractLsb' 16 8) (w.extractLsb' 8 8) (w.extractLsb' 0 8)) ∧
    (w.extractLsb' 64 4 = 0x2 → decode w = .send) ∧
    (w.extractLsb' 64 4 = 0x3 → decode w = .glut (w.extractLsb' 0 8)) ∧
    (w.extractLsb' 64 4 = 0x4 → decode w = .soff (w.extractLsb' 48 16) (w.extractLsb' 32 16)) ∧
    (w.extractLsb' 64 4 = 0x5 → decode w = .rsvd5) ∧
    (w.extractLsb' 64 4 = 0x6 → decode w = .rsvd6) ∧
    (w.extractLsb' 64 4 = 0x7 → decode w = .rsvd7) ∧
    (w.extractLsb' 64 4 = 0x8 → decode w = .rsvd8) ∧
    (w.extractLsb' 64 4 = 0x9 → decode w = .rsvd9) ∧
    (w.extractLsb' 64 4 = 0xA → decode w = .rsvdA) ∧
    (w.extractLsb' 64 4 = 0xB → decode w = .rsvdB) ∧
    (w.extractLsb' 64 4 = 0xC → decode w = .rsvdC) ∧
    (w.extractLsb' 64 4 = 0xD → decode w = .rsvdD) ∧
    (w.extractLsb' 64 4 = 0xE → decode w = .rsvdE) ∧
    (w.extractLsb' 64 4 = 0xF → decode w = .rsvdF) ∧
    (∀ v : CmdWord, w &&& readMask (w.extractLsb' 64 4) = v &&& readMask (w.extractLsb' 64 4) → decode w = decode v)

/-- R81: the bits a command reads, and no others, decide which command it is, and so its result and its response. -/
def Obligations.DecodeReadsExactlyItsFields : Prop :=
  ∀ v w : CmdWord,
    (decode v = decode w ↔ v &&& readMask (CmdWord.op v) = w &&& readMask (CmdWord.op v)) ∧
    (v &&& readMask (CmdWord.op v) = w &&& readMask (CmdWord.op v) → ∀ s : State, exec (decode v) s = exec (decode w) s)

/-- Decode and encode agree on every command, every operand at every value (R76, R77, R82). -/
def Obligations.DecodeEncodeRoundTrip : Prop :=
  ∀ i : Instr, decode (encode i) = i ∧ CmdWord.op (encode i) = opcode i ∧
    encode i &&& readMask (opcode i) = encode i

/-- Words written out in the spec (95_test_vectors.md 2.2) decode as it says. -/
def Obligations.SpecWordsDecodeAsListed : Prop :=
  decode 0x00000000000000000#68 = .nop ∧
  decode 0x10000000100800000#68 = .pix 0 1 0x80 0 0 ∧
  decode 0x100000001FF800000#68 = .pix 0 1 0x80 0 0 ∧
  decode 0x2123456789ABCDEF0#68 = .send ∧
  decode 0x3ABCD1234DEADBE80#68 = .glut 0x80 ∧
  decode 0x40001000300000000#68 = .soff 1 3 ∧
  decode 0x50000000000000000#68 = .rsvd5 ∧
  decode 0x90001000200000003#68 = .rsvd9 ∧
  decode 0xFFFFFFFFFFFFFFFFF#68 = .rsvdF

/-- R89: a line of assembler whose operands fit their fields is the word of the operation it names; its operands stand
in their fields and every other bit is zero. -/
def Obligations.AssemblerLinesNameTheirOperation : Prop :=
  ∀ l : AsmLine, l.wellFormed = true →
    decode l.word = l.operation ∧
    match l with
    | .nop => l.word.toNat = 0
    | .pix x y p => l.word.toNat = 1 * 2 ^ 64 + x * 2 ^ 48 + y * 2 ^ 32 + p
    | .send => l.word.toNat = 2 * 2 ^ 64
    | .glut i => l.word.toNat = 3 * 2 ^ 64 + i
    | .soff x y => l.word.toNat = 4 * 2 ^ 64 + x * 2 ^ 48 + y * 2 ^ 32

/-- R90: ENCODE_FRAME is `N` commands, each a PIX inside the display, and gives every coordinate its pixel of `buf`. -/
def Obligations.EncodeFrameVisitsEveryCoordinate : Prop :=
  ∀ (c : Config) (buf : Nat → Nat → Nat),
    (encodeFrame c buf).length = c.pixels ∧
    (∀ w ∈ (encodeFrame c buf).map AsmLine.word,
      ∃ x y r g b, decode w = .pix x y r g b ∧ inDisplay c x y = true) ∧
    (∀ x y : Coord, inDisplay c x y = true →
      lastPixel x y ((encodeFrame c buf).map AsmLine.word) =
        some (BitVec.ofNat 8 (buf x.toNat y.toNat / 2 ^ 16), BitVec.ofNat 8 (buf x.toNat y.toNat / 2 ^ 8),
          BitVec.ofNat 8 (buf x.toNat y.toNat)))

/-! The configuration (00_scope.md). -/

/-- R8: which pairs of integers are hardware, and the refusal of every other pair by name. -/
def Obligations.OnlyLegalConfigurationsAreBuilt : Prop :=
  ∀ w h : Int,
    ((w ≤ 0 ∨ h ≤ 0) → Config.build w h = .error .constructionError) ∧
    (0 < w → 0 < h → 3 * w * h > 0xFFFF → Config.build w h = .error .encodingError) ∧
    (0 < w → 0 < h → 3 * w * h ≤ 0xFFFF →
      ∃ c : Config, Config.build w h = .ok c ∧ (c.width : Int) = w ∧ (c.height : Int) = h) ∧
    (∀ c : Config, 0 < c.width ∧ 0 < c.height ∧ 3 * c.width * c.height ≤ 0xFFFF)

/-- R7: the derived parameters and their ranges. -/
def Obligations.DerivedParametersAreBounded : Prop :=
  ∀ c : Config,
    c.pixels = c.width * c.height ∧ c.payloadLen = 3 * c.pixels ∧ c.frameLen = 4 + c.payloadLen ∧
    1 ≤ c.pixels ∧ c.pixels ≤ 21845 ∧ 3 ≤ c.payloadLen ∧ c.payloadLen ≤ 65535 ∧
    7 ≤ c.frameLen ∧ c.frameLen ≤ 65539 ∧ c.width ≤ 21845 ∧ c.height ≤ 21845

/-! Unit SMAP (41_serpentine_mapper.md). -/

/-- R120: the offset of a coordinate in the display, by bit 0 of `x`; it depends on the height alone; outside the display
no operation evaluates it: the two that take a coordinate answer CoordError. -/
def Obligations.OffsetIsSerpentine : Prop :=
  (∀ (c : Config) (x y : Coord), x.toNat < c.width → y.toNat < c.height →
    payloadOffset c x y = 3 * (x.toNat * c.height + if x.getLsbD 0 then c.height - 1 - y.toNat else y.toNat) ∧
    pixAddress c x y = 4 + payloadOffset c x y) ∧
  (∀ (c c' : Config) (x y : Coord), c.height = c'.height → payloadOffset c x y = payloadOffset c' x y) ∧
  (∀ (s : State) (x y : Coord) (r g b : Byte), s.encState = .ready → s.txActive = false →
    ¬(x.toNat < s.cfg.width ∧ y.toNat < s.cfg.height) →
    exec (.soff x y) s = .next { s with outs := s.outs ++ [.rsp .coordError 0] } ∧
    exec (.pix x y r g b) s = .next { s with outs := s.outs ++ [.rsp .coordError 0] })

/-- R121: the range of the offset and of the slot index. -/
def Obligations.OffsetFitsSixteenBits : Prop :=
  ∀ (c : Config) (x y : Coord), inDisplay c x y = true →
    alongColumn c.height x.toNat y.toNat ≤ c.height - 1 ∧
    x.toNat * c.height + alongColumn c.height x.toNat y.toNat ≤ c.pixels - 1 ∧
    x.toNat * c.height + alongColumn c.height x.toNat y.toNat ≤ 21844 ∧
    payloadOffset c x y ≤ 3 * (c.pixels - 1) ∧ payloadOffset c x y ≤ 65532 ∧ 3 ∣ payloadOffset c x y ∧
    (BitVec.ofNat 16 (payloadOffset c x y)).toNat = payloadOffset c x y

/-- R123: a pixel's three bytes lie in the payload. -/
def Obligations.PixelSlotLiesInPayload : Prop :=
  ∀ (c : Config) (x y : Coord), inDisplay c x y = true →
    4 ≤ pixAddress c x y ∧ pixAddress c x y + 2 ≤ 4 + 3 * (c.pixels - 1) + 2 ∧
    4 + 3 * (c.pixels - 1) + 2 = c.frameLen - 1 ∧
    ∀ s : State, s.cfg = c → ∀ bs : List Byte, bs.length = 3 → ∃ t, memWrite s (pixAddress c x y) bs = .ok t

/-- R124: the map is a bijection onto `{0, 3, ..., 3(N-1)}` with the given inverse; two pixels share a byte only if they
are the same pixel. -/
def Obligations.SerpentineIsBijection : Prop :=
  ∀ c : Config,
    (∀ x y : Nat, x < c.width → y < c.height →
      ∃ k, k < c.pixels ∧ soff c.height x y = 3 * k ∧ slotOwner c.height k = (x, y)) ∧
    (∀ k : Nat, k < c.pixels →
      (slotOwner c.height k).1 < c.width ∧ (slotOwner c.height k).2 < c.height ∧
      soff c.height (slotOwner c.height k).1 (slotOwner c.height k).2 = 3 * k) ∧
    (∀ k : Nat, slotOwner c.height k =
      (k / c.height, if k / c.height % 2 = 0 then k % c.height else c.height - 1 - k % c.height)) ∧
    (∀ x y x' y' : Coord, inDisplay c x y = true → inDisplay c x' y' = true →
      ∀ a, pixAddress c x y ≤ a → a < pixAddress c x y + 3 → pixAddress c x' y' ≤ a → a < pixAddress c x' y' + 3 →
        x = x' ∧ y = y')

/-- R125: direction within a column, with the height-1 case of 90_conflicts.md C6, and the adjacency of columns. -/
def Obligations.SerpentineDirection : Prop :=
  ∀ (h x : Nat), 1 ≤ h →
    (2 ≤ h → x % 2 = 0 → soff h x 0 < soff h x (h - 1)) ∧
    (2 ≤ h → x % 2 = 1 → soff h x (h - 1) < soff h x 0) ∧
    (h = 1 → soff h x 0 = 3 * x ∧ soff h x 0 = soff h x (h - 1)) ∧
    (∀ y, y + 1 < h → x % 2 = 0 → soff h x (y + 1) = soff h x y + 3) ∧
    (∀ y, y + 1 < h → x % 2 = 1 → soff h x y = soff h x (y + 1) + 3) ∧
    (∀ y, y < h → 3 * x * h ≤ soff h x y ∧ soff h x y ≤ 3 * (x * h + h - 1)) ∧
    (x % 2 = 0 → soff h (x + 1) (h - 1) = soff h x (h - 1) + 3) ∧
    (x % 2 = 1 → soff h (x + 1) 0 = soff h x 0 + 3)

/-! Unit GLUT (40_gamma_lut.md). -/

/-- R106: each entry is the one natural number that meets the integer criterion, and no value is a tie. -/
def Obligations.GammaMeetsIntegerCriterion : Prop :=
  ∀ (i : Byte) (g : Nat),
    (g = (gamma i).toNat ↔
      (g = 0 ∧ 4 * i.toNat ^ 5 < 255 ^ 3) ∨
      (1 ≤ g ∧ (2 * g - 1) ^ 2 * 255 ^ 3 ≤ 4 * i.toNat ^ 5 ∧ 4 * i.toNat ^ 5 < (2 * g + 1) ^ 2 * 255 ^ 3)) ∧
    4 * i.toNat ^ 5 ≠ (2 * g + 1) ^ 2 * 255 ^ 3

/-- R105: the gamma function over the real numbers, rounded to the nearest integer and clamped. -/
def Obligations.GammaIsRoundedPower : Prop :=
  ∀ i : Byte,
    (((gamma i).toNat : Int)) = max 0 (min 255 (round ((255 : ℝ) * ((i.toNat : ℝ) / 255) ^ (2.5 : ℝ))))

/-- R108: the properties promised of the table. -/
def Obligations.GammaTableProperties : Prop :=
  (∀ i : Byte, (((gamma i).toNat : Int)) = round ((255 : ℝ) * ((i.toNat : ℝ) / 255) ^ (2.5 : ℝ))) ∧
  (∀ i j : Byte, i ≤ j → gamma i ≤ gamma j) ∧
  gamma 0 = 0 ∧ gamma 255 = 255 ∧
  (∀ i : Byte, gamma i ≤ i ∧ (gamma i = i ↔ i = 0 ∨ i = 255)) ∧
  gamma 128 = 46 ∧ gamma 129 = 46

/-- R107: the checks a model can run on its copy of the table. -/
def Obligations.GammaTableChecks : Prop :=
  gammaTable.length = 256 ∧ (gammaTable.map BitVec.toNat).sum = 18701 ∧
  gammaTable.foldl (· ^^^ ·) 0 = 125 ∧ gammaTable.dedup.length = 173 ∧
  (∀ i : Byte, gamma i = 0 ↔ i.toNat ≤ 21) ∧ gamma 22 = 1 ∧ gamma 128 = 46 ∧ gamma 254 = 253 ∧ gamma 255 = 255

/-! The commands. Each is accepted when `ENC_STATE = Ready` and `TX_ACTIVE = 0` (R31). -/

/-- R138. -/
def Obligations.NopAnswersOk : Prop :=
  (∀ w : CmdWord, w.extractLsb' 64 4 = 0x0 → decode w = .nop) ∧ AsmLine.word .nop = 0x00000000000000000#68 ∧
  ∀ s : State, s.encState = .ready → s.txActive = false →
    exec .nop s = .next { s with outs := s.outs ++ [.rsp .ok 0] }

/-- R110. -/
def Obligations.GlutAnswersTableEntry : Prop :=
  (∀ w : CmdWord, w.extractLsb' 64 4 = 0x3 → decode w = .glut (w.extractLsb' 0 8)) ∧
  (∀ (i : Byte) (s : State), s.encState = .ready → s.txActive = false →
    exec (.glut i) s = .next { s with outs := s.outs ++ [.rsp .ok (BitVec.ofNat 16 (gamma i).toNat)] }) ∧
  (∀ i : Byte, i.toNat ≤ 21 → gamma i = 0) ∧ gamma 255 = 255 ∧
  AsmLine.word (.glut 0x80) = 0x30000000000000080#68 ∧ gamma 0x80 = 46

/-- R126. -/
def Obligations.SoffAnswersOffset : Prop :=
  (∀ w : CmdWord, w.extractLsb' 64 4 = 0x4 → decode w = .soff (w.extractLsb' 48 16) (w.extractLsb' 32 16)) ∧
  (∀ (x y : Coord) (s : State), s.encState = .ready → s.txActive = false →
    exec (.soff x y) s =
      if x.toNat ≥ s.cfg.width ∨ y.toNat ≥ s.cfg.height then
        .next { s with outs := s.outs ++ [.rsp .coordError 0] }
      else
        .next { s with outs := s.outs ++ [.rsp .ok (BitVec.ofNat 16 (soff s.cfg.height x.toNat y.toNat))] }) ∧
  (∀ h : Nat, soff h 0 0 = 0) ∧
  AsmLine.word (.soff 0 1) = 0x40000000100000000#68 ∧ soff 2 0 1 = 3 ∧ soff 2 1 0 = 9 ∧ soff 2 1 1 = 6

/-- R140: PIX in the display stores its three corrected bytes and nothing else; outside it stores nothing. -/
def Obligations.PixCorrectsAndStoresOnePixel : Prop :=
  (∀ w : CmdWord, w.extractLsb' 64 4 = 0x1 → decode w =
    .pix (w.extractLsb' 48 16) (w.extractLsb' 32 16) (w.extractLsb' 16 8) (w.extractLsb' 8 8) (w.extractLsb' 0 8)) ∧
  (∀ (x y : Coord) (r g b : Byte) (s : State), s.encState = .ready → s.txActive = false →
    (x.toNat ≥ s.cfg.width ∨ y.toNat ≥ s.cfg.height →
      exec (.pix x y r g b) s = .next { s with outs := s.outs ++ [.rsp .coordError 0] }) ∧
    (x.toNat < s.cfg.width → y.toNat < s.cfg.height →
      ∃ t, exec (.pix x y r g b) s = .next t ∧
        t = { s with frame := t.frame, outs := s.outs ++ [.rsp .ok 0] } ∧
        4 ≤ pixAddress s.cfg x y ∧ pixAddress s.cfg x y + 2 ≤ s.cfg.frameLen - 1 ∧
        pixAddress s.cfg x y = 4 + soff s.cfg.height x.toNat y.toNat ∧
        t.frameByte (pixAddress s.cfg x y) = gamma r ∧
        t.frameByte (pixAddress s.cfg x y + 1) = gamma g ∧
        t.frameByte (pixAddress s.cfg x y + 2) = gamma b ∧
        ∀ a, a < pixAddress s.cfg x y ∨ pixAddress s.cfg x y + 3 ≤ a → t.frameByte a = s.frameByte a)) ∧
  AsmLine.word (.pix 0 1 0x800000) = 0x10000000100800000#68 ∧ 4 + soff 2 0 1 = 7 ∧ gamma 0x80 = 0x2E ∧ gamma 0 = 0

/-- R141: all three lanes are written, R first, and the result of one lane never depends on another lane. -/
def Obligations.PixLanesAreIndependent : Prop :=
  ∀ (x y : Coord) (r g b r' g' b' : Byte) (s : State), s.encState = .ready → s.txActive = false →
    x.toNat < s.cfg.width → y.toNat < s.cfg.height →
    ∃ t t', exec (.pix x y r g b) s = .next t ∧ exec (.pix x y r' g' b') s = .next t' ∧
      t.frameByte (pixAddress s.cfg x y) = gamma r ∧ t.frameByte (pixAddress s.cfg x y + 1) = gamma g ∧
      t.frameByte (pixAddress s.cfg x y + 2) = gamma b ∧
      (r = r' → t.frameByte (pixAddress s.cfg x y) = t'.frameByte (pixAddress s.cfg x y)) ∧
      (g = g' → t.frameByte (pixAddress s.cfg x y + 1) = t'.frameByte (pixAddress s.cfg x y + 1)) ∧
      (b = b' → t.frameByte (pixAddress s.cfg x y + 2) = t'.frameByte (pixAddress s.cfg x y + 2)) ∧
      ∀ a, a < pixAddress s.cfg x y ∨ pixAddress s.cfg x y + 3 ≤ a → t.frameByte a = t'.frameByte a

/-- R145: SEND starts the transmission at address 0 with no response yet; no TX step writes `FRAME` either. -/
def Obligations.SendStartsTransmission : Prop :=
  (∀ w : CmdWord, w.extractLsb' 64 4 = 0x2 → decode w = .send) ∧ AsmLine.word .send = 0x20000000000000000#68 ∧
  ∀ s : State, s.encState = .ready → s.txActive = false →
    exec .send s = .next { s with txIdx := 0, txActive := true } ∧
    ∀ u v : State, u.action = .tx → takesReset u = false → step u = .next v →
      v.frame = u.frame ∧ ∀ a, v.frameByte a = u.frameByte a

/-- R155: the eleven reserved opcodes behave alike. -/
def Obligations.ReservedOpcodesAnswerIllegalCommand : Prop :=
  (∀ w : CmdWord, 0x5 ≤ (w.extractLsb' 64 4).toNat →
    decode w ∈ [Instr.rsvd5, .rsvd6, .rsvd7, .rsvd8, .rsvd9, .rsvdA, .rsvdB, .rsvdC, .rsvdD, .rsvdE, .rsvdF]) ∧
  (∀ i ∈ [Instr.rsvd5, .rsvd6, .rsvd7, .rsvd8, .rsvd9, .rsvdA, .rsvdB, .rsvdC, .rsvdD, .rsvdE, .rsvdF],
    ∀ s : State, s.encState = .ready → s.txActive = false →
      exec i s = .next { s with outs := s.outs ++ [.rsp .illegalCommand 0] }) ∧
  decode 0xF0000000000000000#68 = .rsvdF ∧ decode 0x5FFFFFFFFFFFFFFFF#68 = .rsvd5

/-- R31, R161: a command presented while the port is not ready waits and changes nothing (that `exec` then answers the
same state is the model's choice, log 7). The port is ready exactly in a Ready, idle block without reset. R31 says only
that it is ready in no other: that it is ready there is the model's, in which no response is outstanding between steps
(log 9) and the finite number of cycles R31 allows is left out (log 12). The other pins show the state (R33, R34;
`enc_ready` by log 14). -/
def Obligations.CommandWaitsWhilePortNotReady : Prop :=
  (∀ (i : Instr) (s : State), (s.encState = .uninitialized ∨ s.txActive = true) →
    exec i s = .next s ∧ s.cmdReady = false) ∧
  ∀ s : State,
    (s.cmdReady = true ↔ s.rst = false ∧ s.encState = .ready ∧ s.txActive = false) ∧
    (s.txValid = true ↔ s.rst = false ∧ s.txActive = true) ∧
    (s.encReady = true ↔ s.encState = .ready) ∧ s.txBusy = s.txActive

/-- The frame of every command: what none of them changes, what only SEND changes, and which bytes of `FRAME` only PIX
changes (R55, R110, R126, R138, R140, R145, R155). -/
def Obligations.CommandFrame : Prop :=
  ∀ (i : Instr) (s t : State), exec i s = .next t →
    t.cfg = s.cfg ∧ t.encState = s.encState ∧ t.frameDraw = s.frameDraw ∧ t.idxDraw = s.idxDraw ∧
    t.cmdQueue = s.cmdQueue ∧ t.sinkPins = s.sinkPins ∧ t.rstPins = s.rstPins ∧
    (i ≠ .send → t.txActive = s.txActive ∧ t.txIdx = s.txIdx) ∧
    (∀ a, (∀ x y r g b, i = .pix x y r g b → a < pixAddress s.cfg x y ∨ pixAddress s.cfg x y + 3 ≤ a) →
      t.frameByte a = s.frameByte a)

/-- R84: which response each accepted command gives at once, with its code and its data; SEND gives none yet. -/
def Obligations.AnswersFollowResponseTable : Prop :=
  (RspCode.bits .ok = 0 ∧ RspCode.bits .transmissionError = 1 ∧ RspCode.bits .coordError = 2 ∧
    RspCode.bits .illegalCommand = 3) ∧
  ∀ (i : Instr) (s t : State), s.accepts = true → exec i s = .next t →
    (i = .send → t.outs = s.outs) ∧
    (i ≠ .send → ∃ c d, t.outs = s.outs ++ [.rsp c d] ∧
      (c = .ok ∨ (c = .coordError ∧ d = 0 ∧ ∃ x y, (i = .soff x y ∨ ∃ r g b, i = .pix x y r g b) ∧
          (x.toNat ≥ s.cfg.width ∨ y.toNat ≥ s.cfg.height)) ∨
        (c = .illegalCommand ∧ d = 0 ∧ i.reserved = true)) ∧
      (c = .ok → (∃ k, i = .glut k ∧ d.toNat = (gamma k).toNat) ∨
        (∃ x y, i = .soff x y ∧ x.toNat < s.cfg.width ∧ y.toNat < s.cfg.height ∧
          d.toNat = soff s.cfg.height x.toNat y.toNat ∧ d.toNat ≤ 65532) ∨
        (d = 0 ∧ (i = .nop ∨
          ∃ x y r g b, i = .pix x y r g b ∧ x.toNat < s.cfg.width ∧ y.toNat < s.cfg.height))))

/-- R55: repeating a PIX leaves `FRAME` as the first left it. -/
def Obligations.RepeatedPixLeavesFrame : Prop :=
  ∀ (x y : Coord) (r g b : Byte) (s : State), Inv s → s.accepts = true →
    ∃ t u, exec (.pix x y r g b) s = .next t ∧ exec (.pix x y r g b) t = .next u ∧ u.frame = t.frame

/-- R142: the order in which two different coordinates are written does not matter, to any part of the state. -/
def Obligations.PixOrderIsImmaterial : Prop :=
  ∀ (x y x' y' : Coord) (r g b r' g' b' : Byte) (s : State), Inv s → s.accepts = true →
    inDisplay s.cfg x y = true → inDisplay s.cfg x' y' = true → ¬(x = x' ∧ y = y') →
    ∃ t t' u, exec (.pix x y r g b) s = .next t ∧ exec (.pix x' y' r' g' b') t = .next u ∧
      exec (.pix x' y' r' g' b') s = .next t' ∧ exec (.pix x y r g b) t' = .next u

/-! The step: INIT, the TX step, reset, and running a command. -/

/-- A step runs the decoded command: with no reset and the port ready, the word the host presents leaves the port, one
level of `rst` passes, and the rest is `exec` of the decoded, well-formed command (R31, R82, R161) and, for a command it
answers, the edge of the response (R32): another level of `rst` passes, and a reset there replaces the response (R197).
The model's own: the lists of coming inputs (log 6), the response's edge inside the command's step (log 9), and the empty
list of written bytes and the next draw of free bytes that a reset leaves for `FRAME` (log 3, log 4). -/
def Obligations.StepRunsPresentedCommand : Prop :=
  ∀ (s : State) (w : CmdWord) (ws : List CmdWord) (i : Instr),
    s.rst = false → s.encState = .ready → s.txActive = false → s.cmdQueue = w :: ws →
    decode w = i → i.wellFormed = true →
    ∃ t, exec i { s with rstPins := s.rstPins.tail, cmdQueue := ws } = .next t ∧
      (i = .send → step s = .next t) ∧
      (i ≠ .send → s.rstAtResponse = false → step s = .next { t with rstPins := s.rstPins.tail.tail }) ∧
      (i ≠ .send → s.rstAtResponse = true → ∃ u, step s = .next u ∧
        u = { t with
          encState := .uninitialized
          frame := []
          txActive := false
          txIdx := 0
          frameDraw := s.frameDraw + 1
          rstPins := s.rstPins.tail.tail
          outs := s.outs })

/-- The model's way of presenting one command (log 11): the very next step is `exec` of the decoded word in a state that
accepts it, with no reset at the edge of its response. -/
def Obligations.PlacedCommandRunsNext : Prop :=
  ∀ (s : State) (nbits w : Nat) (i : Instr), 68 ≤ nbits → w < 2 ^ 68 → decodeTableWord nbits w = some i →
    ∃ u t, u.accepts = true ∧ u.cfg = s.cfg ∧ u.outs = s.outs ∧ u.cmdQueue = s.cmdQueue ∧
      u.rstPins = false :: s.rstPins ∧ exec i u = .next t ∧
      (i = .send → step (s.withFetchWord nbits w) = .next t) ∧
      (i ≠ .send → step (s.withFetchWord nbits w) = .next { t with rstPins := s.rstPins })

/-- R135: INIT is the only step of an Uninitialized block without reset; it writes the header and nothing else of
`FRAME`, makes the encoder Ready, and puts nothing out; it does not happen again before the next reset. -/
def Obligations.InitWritesHeader : Prop :=
  (∀ s : State, s.rst = false → s.encState = .uninitialized →
    ∃ t, step s = .next t ∧
      t = { s with frame := t.frame, encState := .ready, rstPins := s.rstPins.tail } ∧
      t.frameByte 0 = 0x00 ∧ t.frameByte 1 = 0x00 ∧
      (t.frameByte 2).toNat * 256 + (t.frameByte 3).toNat = 3 * s.cfg.width * s.cfg.height ∧
      ∀ a, 4 ≤ a → t.frameByte a = s.frameByte a) ∧
  (∀ s t : State, s.encState = .ready → step s = .next t →
    s.action ≠ .init ∧ (takesReset s = false → t.encState = .ready)) ∧
  (∀ c : Config, c.width = 10 → c.height = 10 → headerBytes c = [0, 0, 0x01, 0x2C]) ∧
  (∀ c : Config, c.width = 1 → c.height = 1 → headerBytes c = [0, 0, 0x00, 0x03]) ∧
  (∀ c : Config, c.width = 21845 → c.height = 1 → headerBytes c = [0, 0, 0xFF, 0xFF]) ∧
  (∀ c : Config, c.width = 145 → c.height = 150 → headerBytes c = [0, 0, 0xFE, 0xE2]) ∧
  (∀ c : Config, c.width = 16 → c.height = 16 → headerBytes c = [0, 0, 0x03, 0x00])

/-- R150: the TX step on each answer of the sink; the pins it read and one level of `rst` are used up, and another at
the edge of the response where there is one (log 6, log 9; a reset there is another statement's). What `TX_IDX` holds
after the end has no meaning (U8, log 5): nothing is said of it, nor of the model's counter `idxDraw`. -/
def Obligations.TxStepFollowsSinkAnswer : Prop :=
  ∀ s : State, s.rst = false → s.encState = .ready → s.txActive = true → s.txIdx.toNat < s.cfg.frameLen →
    s.txOffer = some (s.frameByte s.txIdx.toNat, decide (s.txIdx.toNat = s.cfg.frameLen - 1)) ∧
    ∀ (p : SinkPins) (ps : List SinkPins), s.sinkPins = p :: ps →
      (p.fail = true → s.rstAtResponse = false → ∃ t, step s = .next t ∧
        t = { s with
          rstPins := s.rstPins.tail.tail
          sinkPins := ps
          txActive := false
          txIdx := t.txIdx
          idxDraw := t.idxDraw
          outs := s.outs ++ [.rsp .transmissionError 0] }) ∧
      (p.fail = false → p.ready = true → s.txIdx.toNat = s.cfg.frameLen - 1 → s.rstAtResponse = false →
        ∃ t, step s = .next t ∧
          t = { s with
            rstPins := s.rstPins.tail.tail
            sinkPins := ps
            txActive := false
            txIdx := t.txIdx
            idxDraw := t.idxDraw
            outs := s.outs ++ [.byte (s.frameByte s.txIdx.toNat) true, .rsp .ok 0] }) ∧
      (p.fail = false → p.ready = true → s.txIdx.toNat ≠ s.cfg.frameLen - 1 →
        (s.txIdx + 1).toNat = s.txIdx.toNat + 1 ∧
        step s = .next { s with
          rstPins := s.rstPins.tail
          sinkPins := ps
          txIdx := s.txIdx + 1
          outs := s.outs ++ [.byte (s.frameByte s.txIdx.toNat) false] }) ∧
      (p.fail = false → p.ready = false →
        step s = .next { s with rstPins := s.rstPins.tail, sinkPins := ps })

/-- R32: a step produces a response exactly when one is due and no reset comes, and never two: every accepted command but
SEND and every end of a transmission (R150) are answered, INIT, reset and every other step are not. R32 says that every
accepted command is answered; that a reset at the response's edge withholds the answer is R197 and R178, and that this edge
stands inside the command's own step is the model's deduction (log 9). -/
def Obligations.ResponseComesExactlyWhenDue : Prop :=
  ∀ s t : State, step s = .next t →
    (rspPins s t ≠ none ↔ responseDue s = true ∧ takesReset s = false) ∧
    (newOuts s t).countP Output.isResponse ≤ 1 ∧ t.outs = s.outs ++ newOuts s t ∧
    (responseDue s = true ↔
      (∃ w, s.action = .cmd w ∧ decode w ≠ .send) ∨
      (s.action = .tx ∧ ∃ p ps, s.sinkPins = p :: ps ∧
        (p.fail = true ∨ (p.ready = true ∧ s.txIdx.toNat + 1 = s.cfg.frameLen))))

/-- R197: what a reset replaces. At the edge of a transfer, the command and the sink's answer are not taken, and nothing is
put out; at the edge of a response, the response is not produced: the command has left the port, and only a byte the sink
has accepted stays put out. Either way the block is reset (a free value at every address of `FRAME`, log 3), and a
transmission it ends puts out nothing at all. That the response's edge stands inside the step, after the command or the
sink's answer has been taken (R32), and so what a reset there leaves taken, is the model's deduction (log 9); the lists of
coming inputs are its choice (log 6). -/
def Obligations.ResetReplacesTransferAndResponse : Prop :=
  ∀ s t : State, step s = .next t → takesReset s = true →
    t.encState = .uninitialized ∧ t.txActive = false ∧ t.txIdx = 0 ∧
    (∀ a, t.frameByte a = Config.freeFrameByte (s.frameDraw + 1) a) ∧
    rspPins s t = none ∧
    (s.rst = true → t.outs = s.outs ∧ t.cmdQueue = s.cmdQueue ∧ t.sinkPins = s.sinkPins) ∧
    (s.rst = false →
      (∀ w, s.action = .cmd w → t.outs = s.outs ∧ t.cmdQueue = s.cmdQueue.tail ∧ t.sinkPins = s.sinkPins) ∧
      (∀ p ps, s.action = .tx → s.sinkPins = p :: ps →
        t.cmdQueue = s.cmdQueue ∧ t.sinkPins = ps ∧
        (p.fail = true → t.outs = s.outs) ∧
        (p.fail = false → t.outs = s.outs ++ [.byte (s.frameByte s.txIdx.toNat) true])))

/-- R196, R197: the reset step in every state, whatever else is presented: the values it leaves, an arbitrary byte at
every address of `FRAME` (a free value, log 3), the five pins at 0, nothing put out, no command and no answer taken. -/
def Obligations.ResetWinsInEveryState : Prop :=
  ∀ s : State, s.rst = true →
    ∃ t, step s = .next t ∧
      t.encState = .uninitialized ∧ t.txActive = false ∧ t.txIdx = 0 ∧
      (∀ a, t.frameByte a = Config.freeFrameByte (s.frameDraw + 1) a) ∧
      t.cmdReady = false ∧ t.txValid = false ∧ t.encReady = false ∧ t.txBusy = false ∧ rspPins s t = none ∧
      t.outs = s.outs ∧ t.cmdQueue = s.cmdQueue ∧ t.sinkPins = s.sinkPins ∧ t.rstPins = s.rstPins.tail ∧
      t.cfg = s.cfg

/-- R36: the state after reset, in every configuration. The empty ports are the model's choice (log 6). -/
def Obligations.ResetStateHoldsResetValues : Prop :=
  ∀ c : Config,
    (State.resetOf c).encState = .uninitialized ∧ (State.resetOf c).txActive = false ∧ (State.resetOf c).txIdx = 0 ∧
    (∀ a, (State.resetOf c).frameByte a = Config.freeFrameByte (State.resetOf c).frameDraw a) ∧
    (State.resetOf c).cmdReady = false ∧ (State.resetOf c).txValid = false ∧ (State.resetOf c).encReady = false ∧
    (State.resetOf c).txBusy = false ∧
    State.reset = State.resetOf State.reset.cfg ∧
    ∃ t, step (State.resetOf c) = .next t ∧ t.encState = .ready ∧ t.accepts = true

/-- R161: a block with nothing to do waits with all its state kept (R191). -/
def Obligations.IdleBlockKeepsItsState : Prop :=
  ∀ s : State, s.rst = false → s.encState = .ready → s.txActive = false → s.cmdQueue = [] →
    step s = .next { s with rstPins := s.rstPins.tail }

/-! Invariants and rules of the whole machine. -/

/-- R29: every step keeps the invariant, from every state that meets it. -/
def Obligations.StepKeepsInvariant : Prop :=
  ∀ s t : State, Inv s → step s = .next t → Inv t

/-- R29: the state after reset meets the invariant, in every configuration. -/
def Obligations.ResetMeetsInvariant : Prop :=
  Inv State.reset ∧ ∀ c : Config, Inv (State.resetOf c)

/-- R161: "No state is final": in a state that meets the invariant every step answers a next state. -/
def Obligations.StepAlwaysGoesOn : Prop :=
  ∀ s : State, Inv s → ∃ t, step s = .next t

/-- R6, R10: no step changes the configuration. -/
def Obligations.ConfigurationNeverChanges : Prop :=
  ∀ s t : State, step s = .next t → t.cfg = s.cfg

/-- R24: reset sets `ENC_STATE` to Uninitialized, INIT sets it to Ready, and nothing else writes it. -/
def Obligations.OnlyResetAndInitWriteEncState : Prop :=
  (∀ c : Config, (State.resetOf c).encState = .uninitialized) ∧
  ∀ s t : State, step s = .next t →
    (takesReset s = true → t.encState = .uninitialized) ∧
    (s.rst = false → s.encState = .uninitialized → s.action = .init ∧ t.encState = .ready) ∧
    (takesReset s = false → s.encState = .ready → t.encState = .ready) ∧
    (t.encState ≠ s.encState → takesReset s = true ∨ s.action = .init)

/-- R25: which step may change which byte of `FRAME`. -/
def Obligations.OnlyInitAndPixWriteFrame : Prop :=
  ∀ (s t : State) (a : Nat), step s = .next t → takesReset s = false → t.frameByte a ≠ s.frameByte a →
    (s.action = .init ∧ a < 4) ∨
    (∃ w x y r g b, s.action = .cmd w ∧ decode w = .pix x y r g b ∧ inDisplay s.cfg x y = true ∧
      pixAddress s.cfg x y ≤ a ∧ a < pixAddress s.cfg x y + 3)

/-- R26: which step may change `TX_ACTIVE` and, while it is 1, `TX_IDX`: reset, SEND and the TX steps. -/
def Obligations.OnlySendAndTxMoveTransmitter : Prop :=
  ∀ s t : State, step s = .next t → (t.txActive ≠ s.txActive ∨ t.txIdx ≠ s.txIdx) →
    takesReset s = true ∨ s.action = .tx ∨
    (∃ w, s.action = .cmd w ∧ decode w = .send ∧ t.txActive = true ∧ t.txIdx = 0)

/-- R161: every step follows the step relation, or the block only waits: nothing is put out and nothing the relation
sees changes (R161 has no such step: it is the model's choice, log 6). A step whose response a reset replaces (R197) is a
step of the relation without its response, and then the relation's reset: that the two are one step of the model is its
deduction (log 9). -/
def Obligations.StepFollowsStepRelation : Prop :=
  ∀ s t : State, Inv s → step s = .next t →
    ∃ evs v,
      (match label s with
        | some l => StepRel s.cfg (view s) l evs v
        | none => evs = [] ∧ v = view s) ∧
      if responseDue s && s.rstAtResponse then
        t.outs = s.outs ++ evs.filter (fun e => !e.isResponse) ∧ StepRel s.cfg v .reset [] (view t)
      else t.outs = s.outs ++ evs ∧ view t = v

/-- R61: during a transmission no command is accepted and no byte of `FRAME` changes. -/
def Obligations.TransmissionLocksFrame : Prop :=
  ∀ s t : State, Inv s → s.txActive = true → takesReset s = false → step s = .next t →
    s.cmdReady = false ∧ t.cmdQueue = s.cmdQueue ∧ t.frame = s.frame ∧ t.encState = .ready ∧
    ∀ a, t.frameByte a = s.frameByte a

/-- R64, R142: a slot keeps its pixel through every step but a reset and a PIX for the same coordinate. -/
def Obligations.SlotKeepsItsPixel : Prop :=
  ∀ (s t : State) (x y : Coord) (p : Byte × Byte × Byte),
    step s = .next t → takesReset s = false → inDisplay s.cfg x y = true → SlotHolds s x y p →
    (∀ w, s.action = .cmd w → pixelOf x y w = none) → SlotHolds t x y p

/-- R142: after any sequence of commands other than SEND, each coordinate's slot holds the last pixel the sequence gave
it, whatever the order and whatever stands between, and a coordinate it never gave keeps its bytes. -/
def Obligations.FrameHoldsLastPixels : Prop :=
  ∀ (s : State) (ws q : List CmdWord), NoReset s → s.accepts = true → s.cmdQueue = ws ++ q →
    (∀ w ∈ ws, decode w ≠ .send) →
    ∃ t, run ws.length s = .next t ∧ t.accepts = true ∧ t.cfg = s.cfg ∧ t.cmdQueue = q ∧
      ∀ x y : Coord, inDisplay s.cfg x y = true →
        (∀ p, lastPixel x y ws = some p → SlotHolds t x y p) ∧
        (lastPixel x y ws = none → ∀ k, k < 3 →
          t.frameByte (pixAddress s.cfg x y + k) = s.frameByte (pixAddress s.cfg x y + k))

/-- R143: a full encode of black makes every payload byte 0, and one of white makes every payload byte 255. -/
def Obligations.BlackAndWhiteFrames : Prop :=
  ∀ (s : State) (ws q : List CmdWord) (v : Byte), NoReset s → s.accepts = true → s.cmdQueue = ws ++ q →
    (∀ w ∈ ws, decode w ≠ .send) → (v = 0 ∨ v = 255) →
    (∀ x y : Coord, inDisplay s.cfg x y = true → lastPixel x y ws = some (v, v, v)) →
    ∃ t, run ws.length s = .next t ∧ t.accepts = true ∧ ∀ a, 4 ≤ a → a < s.cfg.frameLen → t.frameByte a = v

/-- R151: a SEND whose sink never fails delivers the whole frame in order, only the last byte marked, and leaves the
block as it was. -/
def Obligations.SuccessfulSendDeliversFrame : Prop :=
  ∀ (s : State) (w : CmdWord) (ws : List CmdWord) (ps rest : List SinkPins),
    NoReset s → s.encState = .ready → s.txActive = false → s.cmdQueue = w :: ws → decode w = .send →
    s.sinkPins = ps ++ rest → (∀ p ∈ ps, p.fail = false) → acceptCount ps = s.cfg.frameLen →
    (∃ p, ps.getLast? = some p ∧ p.ready = true) →
    ∃ t, run (ps.length + 1) s = .next t ∧
      t.outs = s.outs ++ (List.range s.cfg.frameLen).map
        (fun k => Output.byte (s.frameByte k) (decide (k = s.cfg.frameLen - 1))) ++ [.rsp .ok 0] ∧
      (∀ a, t.frameByte a = s.frameByte a) ∧ t.frame = s.frame ∧ t.txActive = false ∧ t.encState = .ready ∧
      t.cmdQueue = ws ∧ t.sinkPins = rest ∧ t.cfg = s.cfg

/-- R152, with R63 and R169: a SEND whose sink fails after accepting `n` bytes has delivered exactly the first `n`, none marked
last; it answers TransmissionError once, `FRAME` is as it was, and the block accepts the next command; another SEND starts
again at address 0. -/
def Obligations.FailedSendDeliversPrefix : Prop :=
  ∀ (s : State) (w : CmdWord) (ws : List CmdWord) (ps rest : List SinkPins) (p : SinkPins),
    NoReset s → s.encState = .ready → s.txActive = false → s.cmdQueue = w :: ws → decode w = .send →
    s.sinkPins = ps ++ p :: rest → (∀ q ∈ ps, q.fail = false) → acceptCount ps < s.cfg.frameLen → p.fail = true →
    ∃ t, run (ps.length + 2) s = .next t ∧
      t.outs = s.outs ++ (List.range (acceptCount ps)).map (fun k => Output.byte (s.frameByte k) false) ++
        [.rsp .transmissionError 0] ∧
      (∀ a, t.frameByte a = s.frameByte a) ∧ t.frame = s.frame ∧ t.accepts = true ∧ t.cmdQueue = ws ∧
      t.sinkPins = rest ∧ t.cfg = s.cfg ∧ exec .send t = .next { t with txIdx := 0, txActive := true }

/-- R86: a SEND whose sink never fails, from a Ready state: the sink receives one OPC message of `FLEN` bytes, the header
00 00 and the payload length big-endian, each held pixel's corrected bytes at its own place, and only the byte at
`FLEN - 1` marked last (R87); then the response. -/
def Obligations.SentFrameIsOpcMessage : Prop :=
  ∀ (s : State) (w : CmdWord) (ws : List CmdWord) (ps rest : List SinkPins), Inv s →
    NoReset s → s.encState = .ready → s.txActive = false → s.cmdQueue = w :: ws → decode w = .send →
    s.sinkPins = ps ++ rest → (∀ p ∈ ps, p.fail = false) → acceptCount ps = s.cfg.frameLen →
    (∃ p, ps.getLast? = some p ∧ p.ready = true) →
    ∃ (t : State) (bytes : List Byte), run (ps.length + 1) s = .next t ∧
      t.outs = s.outs ++ (List.range s.cfg.frameLen).map
        (fun k => Output.byte (bytes.getD k 0) (decide (k = s.cfg.frameLen - 1))) ++ [.rsp .ok 0] ∧
      bytes.length = s.cfg.frameLen ∧
      bytes.take 4 =
        [0x00, 0x00, BitVec.ofNat 8 (s.cfg.payloadLen / 256), BitVec.ofNat 8 (s.cfg.payloadLen % 256)] ∧
      ∀ x y p, inDisplay s.cfg x y = true → SlotHolds s x y p →
        bytes[4 + soff s.cfg.height x.toNat y.toNat]? = some (gamma p.1) ∧
        bytes[4 + soff s.cfg.height x.toNat y.toNat + 1]? = some (gamma p.2.1) ∧
        bytes[4 + soff s.cfg.height x.toNat y.toNat + 2]? = some (gamma p.2.2)

/-- R86, R90, R142, R151: SEND_FRAME of an image, presented to a Ready, idle block whose sink never fails, delivers the
wire message of that image, whatever `FRAME` held, after an OK for each pixel and before the OK of the SEND. -/
def Obligations.SendFrameDeliversImage : Prop :=
  ∀ (s : State) (buf : Nat → Nat → Nat) (q : List CmdWord) (ps rest : List SinkPins), Inv s →
    NoReset s → s.encState = .ready → s.txActive = false →
    s.cmdQueue = (sendFrame s.cfg buf).map AsmLine.word ++ q →
    s.sinkPins = ps ++ rest → (∀ p ∈ ps, p.fail = false) → acceptCount ps = s.cfg.frameLen →
    (∃ p, ps.getLast? = some p ∧ p.ready = true) →
    ∃ t, run (s.cfg.pixels + 1 + ps.length) s = .next t ∧
      t.outs = s.outs ++ List.replicate s.cfg.pixels (.rsp .ok 0) ++ asSent (wireMessage s.cfg buf) ++
        [.rsp .ok 0] ∧
      t.accepts = true ∧ t.cmdQueue = q ∧ t.sinkPins = rest ∧ t.cfg = s.cfg

/-- R210: a silent sink leaves the transmission in flight for ever: no response, no command accepted, nothing changed
(that an empty list of pins is a silent sink is the model's choice, log 6). -/
def Obligations.SilentSinkHoldsTransmission : Prop :=
  ∀ (s : State) (n : Nat), NoReset s → s.encState = .ready → s.txActive = true → s.sinkPins = [] →
    ∃ t, run n s = .next t ∧ t = { s with rstPins := s.rstPins.drop n } ∧ t.cmdReady = false
end

