-- ==== Sys2Proof/Laws/Decode.lean ====
section
/-! SUPPORT. The command word as a number, its fields as quotients and remainders, and the fields of a packed word. -/
namespace Sys2Proof

/-- Appending bit vectors is multiplying and adding. -/
theorem BitVec.append_toNat {m n : Nat} (a : BitVec m) (b : BitVec n) :
    (a ++ b).toNat = a.toNat * 2 ^ n + b.toNat := by
  rw [BitVec.toNat_append, ← Nat.shiftLeft_add_eq_or_of_lt b.isLt, Nat.shiftLeft_eq]

/-- The number a command word is, by its fields (30_encoding.md R76). -/
theorem packCmd_toNat (op : BitVec 4) (x y : Coord) (p : PixelWord) :
    (packCmd op x y p).toNat = op.toNat * 2 ^ 64 + x.toNat * 2 ^ 48 + y.toNat * 2 ^ 32 + p.toNat := by
  have h : (packCmd op x y p).toNat = (op ++ x ++ y ++ p).toNat := rfl
  rw [h]
  simp only [BitVec.append_toNat]
  omega

/-- The number a pixel word is, by its channels (30_encoding.md R78). -/
theorem packPixel_toNat (r g b : Byte) :
    (packPixel r g b).toNat = r.toNat * 2 ^ 16 + g.toNat * 2 ^ 8 + b.toNat := by
  have h : (packPixel r g b).toNat = (0#8 ++ r ++ g ++ b).toNat := rfl
  rw [h]
  simp only [BitVec.append_toNat, BitVec.toNat_ofNat]
  omega

/-- A slice of a bit vector as a number. -/
theorem BitVec.extract_toNat {m : Nat} (a : BitVec m) (lo n : Nat) :
    (a.extractLsb' lo n).toNat = a.toNat / 2 ^ lo % 2 ^ n := by
  rw [BitVec.extractLsb'_toNat, Nat.shiftRight_eq_div_pow]

theorem CmdWord.op_toNat (w : CmdWord) : (CmdWord.op w).toNat = w.toNat / 2 ^ 64 % 2 ^ 4 := BitVec.extract_toNat ..
theorem CmdWord.x_toNat (w : CmdWord) : (CmdWord.x w).toNat = w.toNat / 2 ^ 48 % 2 ^ 16 := BitVec.extract_toNat ..
theorem CmdWord.y_toNat (w : CmdWord) : (CmdWord.y w).toNat = w.toNat / 2 ^ 32 % 2 ^ 16 := BitVec.extract_toNat ..
theorem CmdWord.pix_toNat (w : CmdWord) : (CmdWord.pix w).toNat = w.toNat % 2 ^ 32 := by
  rw [CmdWord.pix, BitVec.extract_toNat, Nat.pow_zero, Nat.div_one]
theorem PixelWord.red_toNat (p : PixelWord) : (PixelWord.red p).toNat = p.toNat / 2 ^ 16 % 2 ^ 8 :=
  BitVec.extract_toNat ..
theorem PixelWord.green_toNat (p : PixelWord) : (PixelWord.green p).toNat = p.toNat / 2 ^ 8 % 2 ^ 8 :=
  BitVec.extract_toNat ..
theorem PixelWord.blue_toNat (p : PixelWord) : (PixelWord.blue p).toNat = p.toNat % 2 ^ 8 := by
  rw [PixelWord.blue, BitVec.extract_toNat, Nat.pow_zero, Nat.div_one]

/-! The fields of a packed word are what was packed. -/

@[simp] theorem CmdWord.op_packCmd (op : BitVec 4) (x y : Coord) (p : PixelWord) :
    CmdWord.op (packCmd op x y p) = op := by
  apply BitVec.eq_of_toNat_eq
  rw [CmdWord.op_toNat, packCmd_toNat]
  omega

@[simp] theorem CmdWord.x_packCmd (op : BitVec 4) (x y : Coord) (p : PixelWord) :
    CmdWord.x (packCmd op x y p) = x := by
  apply BitVec.eq_of_toNat_eq
  rw [CmdWord.x_toNat, packCmd_toNat]
  omega

@[simp] theorem CmdWord.y_packCmd (op : BitVec 4) (x y : Coord) (p : PixelWord) :
    CmdWord.y (packCmd op x y p) = y := by
  apply BitVec.eq_of_toNat_eq
  rw [CmdWord.y_toNat, packCmd_toNat]
  omega

@[simp] theorem CmdWord.pix_packCmd (op : BitVec 4) (x y : Coord) (p : PixelWord) :
    CmdWord.pix (packCmd op x y p) = p := by
  apply BitVec.eq_of_toNat_eq
  rw [CmdWord.pix_toNat, packCmd_toNat]
  omega

@[simp] theorem PixelWord.red_packPixel (r g b : Byte) : PixelWord.red (packPixel r g b) = r := by
  apply BitVec.eq_of_toNat_eq
  rw [PixelWord.red_toNat, packPixel_toNat]
  omega

@[simp] theorem PixelWord.green_packPixel (r g b : Byte) : PixelWord.green (packPixel r g b) = g := by
  apply BitVec.eq_of_toNat_eq
  rw [PixelWord.green_toNat, packPixel_toNat]
  omega

@[simp] theorem PixelWord.blue_packPixel (r g b : Byte) : PixelWord.blue (packPixel r g b) = b := by
  apply BitVec.eq_of_toNat_eq
  rw [PixelWord.blue_toNat, packPixel_toNat]
  omega

end Sys2Proof
end

