-- ==== Sys2Proof/Laws/Memory.lean ====
section
/-! SUPPORT. The laws of the frame memory as data: a read after a write, and the canonical form. -/
namespace Sys2Proof.Machine

/-- A read gives the byte just written at its address and is otherwise undisturbed. -/
@[simp] theorem Memory.read_write (m : Memory) (a b : Nat) (v : Byte) :
    Memory.read (Memory.write m a v) b = if b = a then some v else Memory.read m b := by
  induction m with
  | nil => simp [Memory.write, Memory.read]
  | cons p m ih =>
    obtain ⟨c, u⟩ := p
    by_cases h1 : a < c
    · simp [Memory.write, h1, Memory.read]
    · by_cases h2 : a = c
      · subst h2
        by_cases h : b = a <;> simp [Memory.write, Memory.read, h]
      · by_cases h : b = c
        · have : b ≠ a := by omega
          simp [Memory.write, h1, h2, Memory.read, h, Ne.symm h2]
        · simp [Memory.write, h1, h2, Memory.read, h, ih]

/-- The addresses listed after a write are the one written and those listed before. -/
theorem Memory.mem_write {m : Memory} {a : Nat} {v : Byte} {p : Host.Cell} (hp : p ∈ Memory.write m a v) :
    p = (a, v) ∨ p ∈ m := by
  induction m with
  | nil => simpa [Memory.write] using hp
  | cons q m ih =>
    obtain ⟨c, u⟩ := q
    rw [Memory.write] at hp
    split at hp
    · simpa using hp
    · split at hp
      · rcases List.mem_cons.1 hp with h | h
        · exact .inl h
        · exact .inr (List.mem_cons_of_mem _ h)
      · rcases List.mem_cons.1 hp with h | h
        · exact .inr (by simp [h])
        · exact (ih h).imp_right (List.mem_cons_of_mem _)

/-- A write keeps the canonical form. -/
theorem Memory.wf_write {m : Memory} (hm : Memory.wf m) (a : Nat) (v : Byte) : Memory.wf (Memory.write m a v) := by
  induction m with
  | nil => simp [Memory.write]
  | cons q m ih =>
    obtain ⟨c, u⟩ := q
    obtain ⟨hc, hm'⟩ := List.pairwise_cons.1 hm
    rw [Memory.write]
    split
    · next h =>
      refine List.pairwise_cons.2 ⟨fun p hp => ?_, hm⟩
      rcases List.mem_cons.1 hp with rfl | hp
      · exact h
      · exact Nat.lt_trans h (hc p hp)
    · split
      · next _ h =>
        subst h
        exact List.pairwise_cons.2 ⟨hc, hm'⟩
      · next h1 h2 =>
        refine List.pairwise_cons.2 ⟨fun p hp => ?_, ih hm'⟩
        rcases Memory.mem_write hp with rfl | hp
        · simp only; omega
        · exact hc p hp

/-- A read after a write of consecutive bytes gives the byte written there, and elsewhere what it gave before. -/
theorem Memory.read_writeAll (bs : List Byte) (m : Memory) (a b : Nat) :
    Memory.read (Memory.writeAll m a bs) b =
      if a ≤ b ∧ b < a + bs.length then bs[b - a]? else Memory.read m b := by
  induction bs generalizing m a with
  | nil =>
    have : ¬(a ≤ b ∧ b < a + ([] : List Byte).length) := by simp
    simp only [Memory.writeAll, if_neg this]
  | cons v bs ih =>
    rw [Memory.writeAll, ih, Memory.read_write]
    by_cases hb : b = a
    · subst hb
      have h1 : ¬(b + 1 ≤ b ∧ b < b + 1 + bs.length) := by omega
      simp
    · by_cases h1 : a + 1 ≤ b ∧ b < a + 1 + bs.length
      · have h2 : a ≤ b ∧ b < a + (v :: bs).length := by simp only [List.length_cons]; omega
        have h3 : b - a = (b - (a + 1)) + 1 := by omega
        rw [if_pos h1, if_pos h2, h3, List.getElem?_cons_succ]
      · have h2 : ¬(a ≤ b ∧ b < a + (v :: bs).length) := by simp only [List.length_cons]; omega
        rw [if_neg h1, if_neg h2, if_neg hb]

/-- A write of consecutive bytes keeps the canonical form. -/
theorem Memory.wf_writeAll (bs : List Byte) {m : Memory} (hm : Memory.wf m) (a : Nat) :
    Memory.wf (Memory.writeAll m a bs) := by
  induction bs generalizing m a with
  | nil => exact hm
  | cons v bs ih => exact ih (Memory.wf_write hm a v) (a + 1)

/-- The addresses listed after a write of consecutive bytes are those written and those listed before. -/
theorem Memory.mem_writeAll {bs : List Byte} {m : Memory} {a : Nat} {p : Host.Cell}
    (hp : p ∈ Memory.writeAll m a bs) : (a ≤ p.1 ∧ p.1 < a + bs.length) ∨ p ∈ m := by
  induction bs generalizing m a with
  | nil => exact .inr hp
  | cons v bs ih =>
    rcases ih hp with h | h
    · simp only [List.length_cons]; omega
    · rcases Memory.mem_write h with rfl | h
      · simp
      · exact .inr h

/-- Two memories in canonical form that read alike are equal as data. -/
theorem Memory.ext_of_read {m n : Memory} (hm : Memory.wf m) (hn : Memory.wf n)
    (h : ∀ a, Memory.read m a = Memory.read n a) : m = n := by
  have none_below : ∀ (l : Memory) (c : Nat), (∀ p ∈ l, c < p.1) → ∀ a, a ≤ c → Memory.read l a = none := by
    intro l c
    induction l with
    | nil => intros; rfl
    | cons q l ih =>
      intro hl a ha
      obtain ⟨d, u⟩ := q
      have hd : c < d := hl (d, u) (by simp)
      rw [Memory.read, if_neg (by omega)]
      exact ih (fun p hp => hl p (by simp [hp])) a ha
  induction m generalizing n with
  | nil =>
    cases n with
    | nil => rfl
    | cons q n =>
      obtain ⟨c, u⟩ := q
      have := h c
      simp [Memory.read] at this
  | cons p m ih =>
    obtain ⟨a, v⟩ := p
    cases n with
    | nil =>
      have := h a
      simp [Memory.read] at this
    | cons q n =>
      obtain ⟨c, u⟩ := q
      obtain ⟨hpm, hm'⟩ := List.pairwise_cons.1 hm
      obtain ⟨hqn, hn'⟩ := List.pairwise_cons.1 hn
      have hac : a = c := by
        rcases Nat.lt_trichotomy a c with hlt | heq | hgt
        · have := h a
          rw [none_below ((c, u) :: n) a] at this
          · simp [Memory.read] at this
          · intro p hp
            rcases List.mem_cons.1 hp with rfl | hp
            · exact hlt
            · exact Nat.lt_trans hlt (hqn p hp)
          · exact Nat.le_refl a
        · exact heq
        · have := h c
          rw [none_below ((a, v) :: m) c] at this
          · simp [Memory.read] at this
          · intro p hp
            rcases List.mem_cons.1 hp with rfl | hp
            · exact hgt
            · exact Nat.lt_trans hgt (hpm p hp)
          · exact Nat.le_refl c
      subst hac
      have hv : v = u := by simpa [Memory.read] using h a
      subst hv
      congr 1
      refine ih hm' hn' fun b => ?_
      by_cases hb : b = a
      · subst hb
        rw [none_below m b hpm b (Nat.le_refl b), none_below n b hqn b (Nat.le_refl b)]
      · simpa [Memory.read, hb] using h b

end Sys2Proof.Machine
end

