-- ==== Sys2Proof/Laws/State.lean ====
section
/-! SUPPORT. What each named update of the state does to each field: one lemma per field per update, true by
computation, so that no later proof unfolds an update. -/
namespace Sys2Proof.Machine

/-! `State.store` -/

@[simp] theorem State.store_cfg (s : State) (a : Nat) (bs : List Byte) : (s.store a bs).cfg = s.cfg := rfl
@[simp] theorem State.store_encState (s : State) (a : Nat) (bs : List Byte) : (s.store a bs).encState = s.encState := rfl
@[simp] theorem State.store_frame (s : State) (a : Nat) (bs : List Byte) : (s.store a bs).frame = Memory.writeAll s.frame a bs := rfl
@[simp] theorem State.store_txActive (s : State) (a : Nat) (bs : List Byte) : (s.store a bs).txActive = s.txActive := rfl
@[simp] theorem State.store_txIdx (s : State) (a : Nat) (bs : List Byte) : (s.store a bs).txIdx = s.txIdx := rfl
@[simp] theorem State.store_frameDraw (s : State) (a : Nat) (bs : List Byte) : (s.store a bs).frameDraw = s.frameDraw := rfl
@[simp] theorem State.store_idxDraw (s : State) (a : Nat) (bs : List Byte) : (s.store a bs).idxDraw = s.idxDraw := rfl
@[simp] theorem State.store_cmdQueue (s : State) (a : Nat) (bs : List Byte) : (s.store a bs).cmdQueue = s.cmdQueue := rfl
@[simp] theorem State.store_sinkPins (s : State) (a : Nat) (bs : List Byte) : (s.store a bs).sinkPins = s.sinkPins := rfl
@[simp] theorem State.store_rstPins (s : State) (a : Nat) (bs : List Byte) : (s.store a bs).rstPins = s.rstPins := rfl
@[simp] theorem State.store_outs (s : State) (a : Nat) (bs : List Byte) : (s.store a bs).outs = s.outs := rfl

/-! `State.respond` -/

@[simp] theorem State.respond_cfg (s : State) (c : RspCode) (d : RspData) : (s.respond c d).cfg = s.cfg := rfl
@[simp] theorem State.respond_encState (s : State) (c : RspCode) (d : RspData) : (s.respond c d).encState = s.encState := rfl
@[simp] theorem State.respond_frame (s : State) (c : RspCode) (d : RspData) : (s.respond c d).frame = s.frame := rfl
@[simp] theorem State.respond_txActive (s : State) (c : RspCode) (d : RspData) : (s.respond c d).txActive = s.txActive := rfl
@[simp] theorem State.respond_txIdx (s : State) (c : RspCode) (d : RspData) : (s.respond c d).txIdx = s.txIdx := rfl
@[simp] theorem State.respond_frameDraw (s : State) (c : RspCode) (d : RspData) : (s.respond c d).frameDraw = s.frameDraw := rfl
@[simp] theorem State.respond_idxDraw (s : State) (c : RspCode) (d : RspData) : (s.respond c d).idxDraw = s.idxDraw := rfl
@[simp] theorem State.respond_cmdQueue (s : State) (c : RspCode) (d : RspData) : (s.respond c d).cmdQueue = s.cmdQueue := rfl
@[simp] theorem State.respond_sinkPins (s : State) (c : RspCode) (d : RspData) : (s.respond c d).sinkPins = s.sinkPins := rfl
@[simp] theorem State.respond_rstPins (s : State) (c : RspCode) (d : RspData) : (s.respond c d).rstPins = s.rstPins := rfl
@[simp] theorem State.respond_outs (s : State) (c : RspCode) (d : RspData) : (s.respond c d).outs = s.outs ++ [.rsp c d] := rfl

/-! `State.emit` -/

@[simp] theorem State.emit_cfg (s : State) (b : Byte) (l : Bool) : (s.emit b l).cfg = s.cfg := rfl
@[simp] theorem State.emit_encState (s : State) (b : Byte) (l : Bool) : (s.emit b l).encState = s.encState := rfl
@[simp] theorem State.emit_frame (s : State) (b : Byte) (l : Bool) : (s.emit b l).frame = s.frame := rfl
@[simp] theorem State.emit_txActive (s : State) (b : Byte) (l : Bool) : (s.emit b l).txActive = s.txActive := rfl
@[simp] theorem State.emit_txIdx (s : State) (b : Byte) (l : Bool) : (s.emit b l).txIdx = s.txIdx := rfl
@[simp] theorem State.emit_frameDraw (s : State) (b : Byte) (l : Bool) : (s.emit b l).frameDraw = s.frameDraw := rfl
@[simp] theorem State.emit_idxDraw (s : State) (b : Byte) (l : Bool) : (s.emit b l).idxDraw = s.idxDraw := rfl
@[simp] theorem State.emit_cmdQueue (s : State) (b : Byte) (l : Bool) : (s.emit b l).cmdQueue = s.cmdQueue := rfl
@[simp] theorem State.emit_sinkPins (s : State) (b : Byte) (l : Bool) : (s.emit b l).sinkPins = s.sinkPins := rfl
@[simp] theorem State.emit_rstPins (s : State) (b : Byte) (l : Bool) : (s.emit b l).rstPins = s.rstPins := rfl
@[simp] theorem State.emit_outs (s : State) (b : Byte) (l : Bool) : (s.emit b l).outs = s.outs ++ [.byte b l] := rfl

/-! `State.raise` -/

@[simp] theorem State.raise_cfg (s : State) (e : BlockError) : (s.raise e).cfg = s.cfg := rfl
@[simp] theorem State.raise_encState (s : State) (e : BlockError) : (s.raise e).encState = s.encState := rfl
@[simp] theorem State.raise_frame (s : State) (e : BlockError) : (s.raise e).frame = s.frame := rfl
@[simp] theorem State.raise_txActive (s : State) (e : BlockError) : (s.raise e).txActive = s.txActive := rfl
@[simp] theorem State.raise_txIdx (s : State) (e : BlockError) : (s.raise e).txIdx = s.txIdx := rfl
@[simp] theorem State.raise_frameDraw (s : State) (e : BlockError) : (s.raise e).frameDraw = s.frameDraw := rfl
@[simp] theorem State.raise_idxDraw (s : State) (e : BlockError) : (s.raise e).idxDraw = s.idxDraw := rfl
@[simp] theorem State.raise_cmdQueue (s : State) (e : BlockError) : (s.raise e).cmdQueue = s.cmdQueue := rfl
@[simp] theorem State.raise_sinkPins (s : State) (e : BlockError) : (s.raise e).sinkPins = s.sinkPins := rfl
@[simp] theorem State.raise_rstPins (s : State) (e : BlockError) : (s.raise e).rstPins = s.rstPins := rfl
@[simp] theorem State.raise_outs (s : State) (e : BlockError) : (s.raise e).outs = s.outs ++ [.rsp e.code 0] := rfl

/-! `State.withdrawResponses` -/

@[simp] theorem State.withdrawResponses_cfg (s : State) (n : Nat) : (s.withdrawResponses n).cfg = s.cfg := rfl
@[simp] theorem State.withdrawResponses_encState (s : State) (n : Nat) : (s.withdrawResponses n).encState = s.encState := rfl
@[simp] theorem State.withdrawResponses_frame (s : State) (n : Nat) : (s.withdrawResponses n).frame = s.frame := rfl
@[simp] theorem State.withdrawResponses_txActive (s : State) (n : Nat) : (s.withdrawResponses n).txActive = s.txActive := rfl
@[simp] theorem State.withdrawResponses_txIdx (s : State) (n : Nat) : (s.withdrawResponses n).txIdx = s.txIdx := rfl
@[simp] theorem State.withdrawResponses_frameDraw (s : State) (n : Nat) : (s.withdrawResponses n).frameDraw = s.frameDraw := rfl
@[simp] theorem State.withdrawResponses_idxDraw (s : State) (n : Nat) : (s.withdrawResponses n).idxDraw = s.idxDraw := rfl
@[simp] theorem State.withdrawResponses_cmdQueue (s : State) (n : Nat) : (s.withdrawResponses n).cmdQueue = s.cmdQueue := rfl
@[simp] theorem State.withdrawResponses_sinkPins (s : State) (n : Nat) : (s.withdrawResponses n).sinkPins = s.sinkPins := rfl
@[simp] theorem State.withdrawResponses_rstPins (s : State) (n : Nat) : (s.withdrawResponses n).rstPins = s.rstPins := rfl
@[simp] theorem State.withdrawResponses_outs (s : State) (n : Nat) :
    (s.withdrawResponses n).outs = s.outs.take n ++ (s.outs.drop n).filter fun e => !e.isResponse := rfl

/-! `State.tick` -/

@[simp] theorem State.tick_cfg (s : State) : (s.tick).cfg = s.cfg := rfl
@[simp] theorem State.tick_encState (s : State) : (s.tick).encState = s.encState := rfl
@[simp] theorem State.tick_frame (s : State) : (s.tick).frame = s.frame := rfl
@[simp] theorem State.tick_txActive (s : State) : (s.tick).txActive = s.txActive := rfl
@[simp] theorem State.tick_txIdx (s : State) : (s.tick).txIdx = s.txIdx := rfl
@[simp] theorem State.tick_frameDraw (s : State) : (s.tick).frameDraw = s.frameDraw := rfl
@[simp] theorem State.tick_idxDraw (s : State) : (s.tick).idxDraw = s.idxDraw := rfl
@[simp] theorem State.tick_cmdQueue (s : State) : (s.tick).cmdQueue = s.cmdQueue := rfl
@[simp] theorem State.tick_sinkPins (s : State) : (s.tick).sinkPins = s.sinkPins := rfl
@[simp] theorem State.tick_rstPins (s : State) : (s.tick).rstPins = s.rstPins.tail := rfl
@[simp] theorem State.tick_outs (s : State) : (s.tick).outs = s.outs := rfl

/-! `State.takeCommand` -/

@[simp] theorem State.takeCommand_cfg (s : State) : (s.takeCommand).cfg = s.cfg := rfl
@[simp] theorem State.takeCommand_encState (s : State) : (s.takeCommand).encState = s.encState := rfl
@[simp] theorem State.takeCommand_frame (s : State) : (s.takeCommand).frame = s.frame := rfl
@[simp] theorem State.takeCommand_txActive (s : State) : (s.takeCommand).txActive = s.txActive := rfl
@[simp] theorem State.takeCommand_txIdx (s : State) : (s.takeCommand).txIdx = s.txIdx := rfl
@[simp] theorem State.takeCommand_frameDraw (s : State) : (s.takeCommand).frameDraw = s.frameDraw := rfl
@[simp] theorem State.takeCommand_idxDraw (s : State) : (s.takeCommand).idxDraw = s.idxDraw := rfl
@[simp] theorem State.takeCommand_cmdQueue (s : State) : (s.takeCommand).cmdQueue = s.cmdQueue.tail := rfl
@[simp] theorem State.takeCommand_sinkPins (s : State) : (s.takeCommand).sinkPins = s.sinkPins := rfl
@[simp] theorem State.takeCommand_rstPins (s : State) : (s.takeCommand).rstPins = s.rstPins := rfl
@[simp] theorem State.takeCommand_outs (s : State) : (s.takeCommand).outs = s.outs := rfl

/-! `State.takeAnswer` -/

@[simp] theorem State.takeAnswer_cfg (s : State) : (s.takeAnswer).cfg = s.cfg := rfl
@[simp] theorem State.takeAnswer_encState (s : State) : (s.takeAnswer).encState = s.encState := rfl
@[simp] theorem State.takeAnswer_frame (s : State) : (s.takeAnswer).frame = s.frame := rfl
@[simp] theorem State.takeAnswer_txActive (s : State) : (s.takeAnswer).txActive = s.txActive := rfl
@[simp] theorem State.takeAnswer_txIdx (s : State) : (s.takeAnswer).txIdx = s.txIdx := rfl
@[simp] theorem State.takeAnswer_frameDraw (s : State) : (s.takeAnswer).frameDraw = s.frameDraw := rfl
@[simp] theorem State.takeAnswer_idxDraw (s : State) : (s.takeAnswer).idxDraw = s.idxDraw := rfl
@[simp] theorem State.takeAnswer_cmdQueue (s : State) : (s.takeAnswer).cmdQueue = s.cmdQueue := rfl
@[simp] theorem State.takeAnswer_sinkPins (s : State) : (s.takeAnswer).sinkPins = s.sinkPins.tail := rfl
@[simp] theorem State.takeAnswer_rstPins (s : State) : (s.takeAnswer).rstPins = s.rstPins := rfl
@[simp] theorem State.takeAnswer_outs (s : State) : (s.takeAnswer).outs = s.outs := rfl

/-! `State.becomeReady` -/

@[simp] theorem State.becomeReady_cfg (s : State) : (s.becomeReady).cfg = s.cfg := rfl
@[simp] theorem State.becomeReady_encState (s : State) : (s.becomeReady).encState = .ready := rfl
@[simp] theorem State.becomeReady_frame (s : State) : (s.becomeReady).frame = s.frame := rfl
@[simp] theorem State.becomeReady_txActive (s : State) : (s.becomeReady).txActive = s.txActive := rfl
@[simp] theorem State.becomeReady_txIdx (s : State) : (s.becomeReady).txIdx = s.txIdx := rfl
@[simp] theorem State.becomeReady_frameDraw (s : State) : (s.becomeReady).frameDraw = s.frameDraw := rfl
@[simp] theorem State.becomeReady_idxDraw (s : State) : (s.becomeReady).idxDraw = s.idxDraw := rfl
@[simp] theorem State.becomeReady_cmdQueue (s : State) : (s.becomeReady).cmdQueue = s.cmdQueue := rfl
@[simp] theorem State.becomeReady_sinkPins (s : State) : (s.becomeReady).sinkPins = s.sinkPins := rfl
@[simp] theorem State.becomeReady_rstPins (s : State) : (s.becomeReady).rstPins = s.rstPins := rfl
@[simp] theorem State.becomeReady_outs (s : State) : (s.becomeReady).outs = s.outs := rfl

/-! `State.startTransmission` -/

@[simp] theorem State.startTransmission_cfg (s : State) : (s.startTransmission).cfg = s.cfg := rfl
@[simp] theorem State.startTransmission_encState (s : State) : (s.startTransmission).encState = s.encState := rfl
@[simp] theorem State.startTransmission_frame (s : State) : (s.startTransmission).frame = s.frame := rfl
@[simp] theorem State.startTransmission_txActive (s : State) : (s.startTransmission).txActive = true := rfl
@[simp] theorem State.startTransmission_txIdx (s : State) : (s.startTransmission).txIdx = 0 := rfl
@[simp] theorem State.startTransmission_frameDraw (s : State) : (s.startTransmission).frameDraw = s.frameDraw := rfl
@[simp] theorem State.startTransmission_idxDraw (s : State) : (s.startTransmission).idxDraw = s.idxDraw := rfl
@[simp] theorem State.startTransmission_cmdQueue (s : State) : (s.startTransmission).cmdQueue = s.cmdQueue := rfl
@[simp] theorem State.startTransmission_sinkPins (s : State) : (s.startTransmission).sinkPins = s.sinkPins := rfl
@[simp] theorem State.startTransmission_rstPins (s : State) : (s.startTransmission).rstPins = s.rstPins := rfl
@[simp] theorem State.startTransmission_outs (s : State) : (s.startTransmission).outs = s.outs := rfl

/-! `State.advance` -/

@[simp] theorem State.advance_cfg (s : State) : (s.advance).cfg = s.cfg := rfl
@[simp] theorem State.advance_encState (s : State) : (s.advance).encState = s.encState := rfl
@[simp] theorem State.advance_frame (s : State) : (s.advance).frame = s.frame := rfl
@[simp] theorem State.advance_txActive (s : State) : (s.advance).txActive = s.txActive := rfl
@[simp] theorem State.advance_txIdx (s : State) : (s.advance).txIdx = s.txIdx + 1 := rfl
@[simp] theorem State.advance_frameDraw (s : State) : (s.advance).frameDraw = s.frameDraw := rfl
@[simp] theorem State.advance_idxDraw (s : State) : (s.advance).idxDraw = s.idxDraw := rfl
@[simp] theorem State.advance_cmdQueue (s : State) : (s.advance).cmdQueue = s.cmdQueue := rfl
@[simp] theorem State.advance_sinkPins (s : State) : (s.advance).sinkPins = s.sinkPins := rfl
@[simp] theorem State.advance_rstPins (s : State) : (s.advance).rstPins = s.rstPins := rfl
@[simp] theorem State.advance_outs (s : State) : (s.advance).outs = s.outs := rfl

/-! `State.endTransmission` -/

@[simp] theorem State.endTransmission_cfg (s : State) : (s.endTransmission).cfg = s.cfg := rfl
@[simp] theorem State.endTransmission_encState (s : State) : (s.endTransmission).encState = s.encState := rfl
@[simp] theorem State.endTransmission_frame (s : State) : (s.endTransmission).frame = s.frame := rfl
@[simp] theorem State.endTransmission_txActive (s : State) : (s.endTransmission).txActive = false := rfl
@[simp] theorem State.endTransmission_txIdx (s : State) : (s.endTransmission).txIdx = Config.freeTxIdx s.idxDraw := rfl
@[simp] theorem State.endTransmission_frameDraw (s : State) : (s.endTransmission).frameDraw = s.frameDraw := rfl
@[simp] theorem State.endTransmission_idxDraw (s : State) : (s.endTransmission).idxDraw = s.idxDraw + 1 := rfl
@[simp] theorem State.endTransmission_cmdQueue (s : State) : (s.endTransmission).cmdQueue = s.cmdQueue := rfl
@[simp] theorem State.endTransmission_sinkPins (s : State) : (s.endTransmission).sinkPins = s.sinkPins := rfl
@[simp] theorem State.endTransmission_rstPins (s : State) : (s.endTransmission).rstPins = s.rstPins := rfl
@[simp] theorem State.endTransmission_outs (s : State) : (s.endTransmission).outs = s.outs := rfl

/-! `takeReset` -/

@[simp] theorem takeReset_cfg (s : State) : (takeReset s).cfg = s.cfg := rfl
@[simp] theorem takeReset_encState (s : State) : (takeReset s).encState = .uninitialized := rfl
@[simp] theorem takeReset_frame (s : State) : (takeReset s).frame = [] := rfl
@[simp] theorem takeReset_txActive (s : State) : (takeReset s).txActive = false := rfl
@[simp] theorem takeReset_txIdx (s : State) : (takeReset s).txIdx = 0 := rfl
@[simp] theorem takeReset_frameDraw (s : State) : (takeReset s).frameDraw = s.frameDraw + 1 := rfl
@[simp] theorem takeReset_idxDraw (s : State) : (takeReset s).idxDraw = s.idxDraw := rfl
@[simp] theorem takeReset_cmdQueue (s : State) : (takeReset s).cmdQueue = s.cmdQueue := rfl
@[simp] theorem takeReset_sinkPins (s : State) : (takeReset s).sinkPins = s.sinkPins := rfl
@[simp] theorem takeReset_rstPins (s : State) : (takeReset s).rstPins = s.rstPins := rfl
@[simp] theorem takeReset_outs (s : State) : (takeReset s).outs = s.outs := rfl

/-! A byte of `FRAME` reads the same after every update that leaves `frame` and `frameDraw`. -/

@[simp] theorem State.respond_frameByte (s : State) (c : RspCode) (d : RspData) (k : Nat) :
    (s.respond c d).frameByte k = s.frameByte k := rfl
@[simp] theorem State.emit_frameByte (s : State) (b : Byte) (l : Bool) (k : Nat) :
    (s.emit b l).frameByte k = s.frameByte k := rfl
@[simp] theorem State.raise_frameByte (s : State) (e : BlockError) (k : Nat) :
    (s.raise e).frameByte k = s.frameByte k := rfl
@[simp] theorem State.tick_frameByte (s : State) (k : Nat) :
    (s.tick).frameByte k = s.frameByte k := rfl
@[simp] theorem State.takeCommand_frameByte (s : State) (k : Nat) :
    (s.takeCommand).frameByte k = s.frameByte k := rfl
@[simp] theorem State.takeAnswer_frameByte (s : State) (k : Nat) :
    (s.takeAnswer).frameByte k = s.frameByte k := rfl
@[simp] theorem State.becomeReady_frameByte (s : State) (k : Nat) :
    (s.becomeReady).frameByte k = s.frameByte k := rfl
@[simp] theorem State.startTransmission_frameByte (s : State) (k : Nat) :
    (s.startTransmission).frameByte k = s.frameByte k := rfl
@[simp] theorem State.advance_frameByte (s : State) (k : Nat) :
    (s.advance).frameByte k = s.frameByte k := rfl
@[simp] theorem State.endTransmission_frameByte (s : State) (k : Nat) :
    (s.endTransmission).frameByte k = s.frameByte k := rfl

/-- After a reset step every byte of `FRAME` is an arbitrary value (70_reset_and_hazards.md R196). -/
@[simp] theorem takeReset_frameByte (s : State) (k : Nat) :
    (takeReset s).frameByte k = Config.freeFrameByte (s.frameDraw + 1) k := rfl

/-! Whether a command is accepted depends on `encState` and `txActive` alone. -/

/-- 10_state.md R31. -/
theorem State.accepts_iff (s : State) : s.accepts = true ↔ s.encState = .ready ∧ s.txActive = false := by
  simp [State.accepts]

@[simp] theorem State.store_accepts (s : State) (a : Nat) (bs : List Byte) : (s.store a bs).accepts = s.accepts := rfl
@[simp] theorem State.respond_accepts (s : State) (c : RspCode) (d : RspData) : (s.respond c d).accepts = s.accepts := rfl
@[simp] theorem State.emit_accepts (s : State) (b : Byte) (l : Bool) : (s.emit b l).accepts = s.accepts := rfl
@[simp] theorem State.raise_accepts (s : State) (e : BlockError) : (s.raise e).accepts = s.accepts := rfl
@[simp] theorem State.tick_accepts (s : State) : (s.tick).accepts = s.accepts := rfl
@[simp] theorem State.takeCommand_accepts (s : State) : (s.takeCommand).accepts = s.accepts := rfl
@[simp] theorem State.takeAnswer_accepts (s : State) : (s.takeAnswer).accepts = s.accepts := rfl
@[simp] theorem State.advance_accepts (s : State) : (s.advance).accepts = s.accepts := rfl

/-! The level of `rst` depends on `rstPins` alone. -/

@[simp] theorem State.store_rst (s : State) (a : Nat) (bs : List Byte) : (s.store a bs).rst = s.rst := rfl
@[simp] theorem State.respond_rst (s : State) (c : RspCode) (d : RspData) : (s.respond c d).rst = s.rst := rfl
@[simp] theorem State.emit_rst (s : State) (b : Byte) (l : Bool) : (s.emit b l).rst = s.rst := rfl
@[simp] theorem State.raise_rst (s : State) (e : BlockError) : (s.raise e).rst = s.rst := rfl
@[simp] theorem State.takeCommand_rst (s : State) : (s.takeCommand).rst = s.rst := rfl
@[simp] theorem State.takeAnswer_rst (s : State) : (s.takeAnswer).rst = s.rst := rfl
@[simp] theorem State.becomeReady_rst (s : State) : (s.becomeReady).rst = s.rst := rfl
@[simp] theorem State.startTransmission_rst (s : State) : (s.startTransmission).rst = s.rst := rfl
@[simp] theorem State.advance_rst (s : State) : (s.advance).rst = s.rst := rfl
@[simp] theorem State.endTransmission_rst (s : State) : (s.endTransmission).rst = s.rst := rfl
@[simp] theorem State.withdrawResponses_rst (s : State) (n : Nat) : (s.withdrawResponses n).rst = s.rst := rfl
@[simp] theorem takeReset_rst (s : State) : (takeReset s).rst = s.rst := rfl

end Sys2Proof.Machine
end

