-- ==== Sys2Proof/Laws/Ops.lean ====
section
/-! SUPPORT. One lemma per shared operation that says everything it can do; later proofs cite these and do not unfold
the operation. -/
namespace Sys2Proof.Machine

/-- `MemWrite` inside the frame buffer answers the state with the bytes stored. -/
theorem memWrite_of_le {s : State} {a : Nat} {bs : List Byte} (h : a + bs.length ≤ s.cfg.frameLen) :
    memWrite s a bs = .ok (s.store a bs) := by
  simp [memWrite, h]

/-- `MemWrite` answers only inside the frame buffer, and then stores the bytes and changes nothing else. -/
theorem memWrite_ok {s t : State} {a : Nat} {bs : List Byte} (h : memWrite s a bs = .ok t) :
    a + bs.length ≤ s.cfg.frameLen ∧ t = s.store a bs := by
  unfold memWrite at h
  split at h
  · next hle => exact ⟨hle, by simpa using h.symm⟩
  · simp at h

/-- `FRAME` after bytes have been stored at `a`: those bytes there, and every other byte as it was. -/
theorem State.store_frameByte (s : State) (a : Nat) (bs : List Byte) (b : Nat) :
    (s.store a bs).frameByte b = if a ≤ b ∧ b < a + bs.length then bs.getD (b - a) 0 else s.frameByte b := by
  unfold State.frameByte
  rw [State.store_frame, State.store_frameDraw, Memory.read_writeAll]
  split
  · next h =>
    have hlt : b - a < bs.length := by omega
    simp [List.getElem?_eq_getElem hlt]
  · rfl

/-- `MemRead(a, 1)` inside the frame buffer. -/
theorem readByte_of_lt {s : State} {a : Nat} (h : a < s.cfg.frameLen) : readByte s a = .ok (s.frameByte a) := by
  simp [readByte, h]

/-- `MemRead(a, 1)` answers only inside the frame buffer, with the byte `FRAME` holds. -/
theorem readByte_ok {s : State} {a : Nat} {b : Byte} (h : readByte s a = .ok b) :
    a < s.cfg.frameLen ∧ b = s.frameByte a := by
  unfold readByte at h
  split at h
  · next hlt => exact ⟨hlt, by simpa using h.symm⟩
  · simp at h

/-- An accepted command has its effect. -/
@[simp] theorem State.ifAccepted_of_accepts {s : State} (h : s.accepts = true)
    (r : Host.Outcome State Fault Refusal) : s.ifAccepted r = r := by
  simp [State.ifAccepted, h]

/-- A command that is not accepted waits. -/
@[simp] theorem State.ifAccepted_of_not {s : State} (h : s.accepts = false)
    (r : Host.Outcome State Fault Refusal) : s.ifAccepted r = .next s := by
  simp [State.ifAccepted, h]

/-- The three answers of the sink, by its pins (10_state.md R33). -/
theorem SinkPins.answer_cases (p : SinkPins) :
    (p.fail = true ∧ p.answer = .fail) ∨ (p.fail = false ∧ p.ready = true ∧ p.answer = .accept) ∨
      (p.fail = false ∧ p.ready = false ∧ p.answer = .wait) := by
  obtain ⟨r, f⟩ := p
  cases r <;> cases f <;> simp [SinkPins.answer]

end Sys2Proof.Machine
end

