-- ==== Sys2Proof/Laws/Exec.lean ====
section
/-! SUPPORT. What a command, INIT, a TX step and a step of the machine can do, each said once as the cases of its
answer; every invariant and frame follows from these without unfolding a meaning. -/
namespace Sys2Proof.Machine

/-- What an accepted command can do: answer at once and change nothing else, store a slot and answer OK, or start a
transmission. -/
inductive CommandEffect (i : Instr) (s : State) : State → Prop where
  | answered (c : RspCode) (d : RspData) : i ≠ .send → CommandEffect i s (s.respond c d)
  | stored (x y : Coord) (r g b : Byte) : i = .pix x y r g b → inDisplay s.cfg x y = true →
      pixAddress s.cfg x y + 3 ≤ s.cfg.frameLen →
      CommandEffect i s ((s.store (pixAddress s.cfg x y) [gamma r, gamma g, gamma b]).respond .ok 0)
  | started : i = .send → CommandEffect i s s.startTransmission

/-- A PIX that answers. -/
theorem execPix_next {x y : Coord} {r g b : Byte} {s t : State} (hs : s.accepts = true)
    (h : execPix x y r g b s = .next t) : CommandEffect (.pix x y r g b) s t := by
  rw [execPix, State.ifAccepted_of_accepts hs] at h
  split at h
  · next hin =>
    split at h
    · next u hu =>
      obtain ⟨hle, rfl⟩ := memWrite_ok hu
      cases h
      exact .stored x y r g b rfl hin hle
    · cases h
  · cases h
    exact .answered .coordError 0 (by simp)

/-- Every command, when it answers: it waits, or it is accepted and has one of the three effects. -/
theorem exec_cases {i : Instr} {s t : State} (h : exec i s = .next t) :
    (s.accepts = false ∧ t = s) ∨ (s.accepts = true ∧ CommandEffect i s t) := by
  cases hs : s.accepts with
  | false =>
    left
    refine ⟨rfl, ?_⟩
    cases i <;>
      · simp only [exec, execNop, execPix, execSend, execGlut, execSoff, execReserved, execRsvd5, execRsvd6, execRsvd7,
          execRsvd8, execRsvd9, execRsvdA, execRsvdB, execRsvdC, execRsvdD, execRsvdE, execRsvdF,
          State.ifAccepted_of_not hs, Host.Outcome.next.injEq] at h
        exact h.symm
  | true =>
    right
    refine ⟨rfl, ?_⟩
    cases i with
    | pix x y r g b => exact execPix_next hs h
    | send =>
      rw [exec, execSend, State.ifAccepted_of_accepts hs] at h
      cases h
      exact .started rfl
    | soff x y =>
      rw [exec, execSoff, State.ifAccepted_of_accepts hs] at h
      split at h <;> cases h <;> exact .answered _ _ (by simp)
    | nop | glut k | rsvd5 | rsvd6 | rsvd7 | rsvd8 | rsvd9 | rsvdA | rsvdB | rsvdC | rsvdD | rsvdE | rsvdF =>
      simp only [exec, execNop, execGlut, execReserved, execRsvd5, execRsvd6, execRsvd7, execRsvd8, execRsvd9, execRsvdA,
        execRsvdB, execRsvdC, execRsvdD, execRsvdE, execRsvdF, State.ifAccepted_of_accepts hs,
        Host.Outcome.next.injEq] at h
      subst h
      exact .answered _ _ (by simp)

/-- INIT always answers: the header stands in `FRAME[0 .. 3]` and the encoder is Ready. -/
theorem initStep_eq (s : State) : initStep s = .next (s.store 0 (headerBytes s.cfg)).becomeReady := by
  have h : 0 + (headerBytes s.cfg).length ≤ s.cfg.frameLen := by
    simp [headerBytes, Config.frameLen]
  rw [initStep, memWrite_of_le h]

/-- What a TX step can do (42_frame_encoder.md R150). -/
inductive TxEffect (s : State) : State → Prop where
  | silent : s.sinkPins = [] → TxEffect s s
  | waited (p : SinkPins) (ps : List SinkPins) : s.sinkPins = p :: ps → p.answer = .wait →
      TxEffect s s.takeAnswer
  | failed (p : SinkPins) (ps : List SinkPins) : s.sinkPins = p :: ps → p.answer = .fail →
      TxEffect s (s.takeAnswer.endTransmission.raise .transmissionError)
  | acceptedLast (p : SinkPins) (ps : List SinkPins) : s.sinkPins = p :: ps → p.answer = .accept →
      s.txIdx.toNat + 1 = s.cfg.frameLen →
      TxEffect s (((s.takeAnswer.emit (s.frameByte s.txIdx.toNat) true).endTransmission).respond .ok 0)
  | acceptedMore (p : SinkPins) (ps : List SinkPins) : s.sinkPins = p :: ps → p.answer = .accept →
      s.txIdx.toNat + 1 < s.cfg.frameLen →
      TxEffect s (s.takeAnswer.emit (s.frameByte s.txIdx.toNat) false).advance

/-- The step on an accepted byte inside the frame buffer. -/
theorem txAccept_of_lt {s : State} (h : s.txIdx.toNat < s.cfg.frameLen) :
    txAccept s =
      if s.txIdx.toNat + 1 = s.cfg.frameLen then
        .next (((s.emit (s.frameByte s.txIdx.toNat) true).endTransmission).respond .ok 0)
      else .next (s.emit (s.frameByte s.txIdx.toNat) false).advance := by
  simp only [txAccept, readByte_of_lt h, State.atLastByte, decide_eq_true_eq]

/-- A TX step does what its effect says: the five cases are complete. -/
theorem txStep_of_effect {s t : State} (h : TxEffect s t) : txStep s = .next t := by
  cases h with
  | silent hp => rw [txStep, hp]
  | waited p ps hp ha => rw [txStep, hp]; simp only [ha]
  | failed p ps hp ha => rw [txStep, hp]; simp only [ha]
  | acceptedLast p ps hp ha hl =>
    have hlt : s.takeAnswer.txIdx.toNat < s.takeAnswer.cfg.frameLen := by
      simp only [State.takeAnswer_txIdx, State.takeAnswer_cfg]; omega
    rw [txStep, hp]
    simp only [ha]
    rw [txAccept_of_lt hlt, if_pos (by simpa using hl)]
    rfl
  | acceptedMore p ps hp ha hl =>
    have hlt : s.takeAnswer.txIdx.toNat < s.takeAnswer.cfg.frameLen := by
      simp only [State.takeAnswer_txIdx, State.takeAnswer_cfg]; omega
    rw [txStep, hp]
    simp only [ha]
    rw [txAccept_of_lt hlt, if_neg (by simp only [State.takeAnswer_txIdx, State.takeAnswer_cfg]; omega)]
    rfl

/-- Inside the frame buffer a TX step always has one of its effects. -/
theorem txStep_effect {s : State} (h : s.txIdx.toNat < s.cfg.frameLen) : ∃ t, TxEffect s t := by
  cases hp : s.sinkPins with
  | nil => exact ⟨_, .silent hp⟩
  | cons p ps =>
    rcases p.answer_cases with ⟨_, ha⟩ | ⟨_, _, ha⟩ | ⟨_, _, ha⟩
    · exact ⟨_, .failed p ps hp ha⟩
    · by_cases hl : s.txIdx.toNat + 1 = s.cfg.frameLen
      · exact ⟨_, .acceptedLast p ps hp ha hl⟩
      · exact ⟨_, .acceptedMore p ps hp ha (by omega)⟩
    · exact ⟨_, .waited p ps hp ha⟩

/-- A TX step, when it answers. -/
theorem txStep_cases {s t : State} (h : txStep s = .next t) : TxEffect s t := by
  unfold txStep at h
  split at h
  · next hp => cases h; exact .silent hp
  · next p ps hp =>
    split at h
    · next ha => cases h; exact .failed p ps hp ha
    · next ha =>
      have hlt : s.txIdx.toNat < s.cfg.frameLen := by
        unfold txAccept at h
        split at h
        · next b hb => exact (readByte_ok hb).1
        · cases h
      obtain ⟨u, hu⟩ := txStep_effect hlt
      have hstep : txAccept s.takeAnswer = .next u := by
        have := txStep_of_effect hu
        rw [txStep, hp] at this
        simpa only [ha] using this
      rw [hstep] at h
      cases h
      exact hu
    · next ha => cases h; exact .waited p ps hp ha

/-- An operation that answers, by the action it takes (42_frame_encoder.md R161). -/
theorem operate_cases {s t : State} (h : operate s = .next t) :
    (s.action = .reset ∧ t = takeReset s.tick) ∨
    (s.action = .init ∧ initStep s.tick = .next t) ∨
    (s.action = .tx ∧ TxEffect s.tick t) ∨
    (∃ w, s.action = .cmd w ∧ exec (decode w) s.tick.takeCommand = .next t) ∨
    (s.action = .idle ∧ t = s.tick) := by
  unfold operate at h
  split at h
  · next ha => cases h; exact .inl ⟨ha, rfl⟩
  · next ha => exact .inr (.inl ⟨ha, h⟩)
  · next ha => exact .inr (.inr (.inl ⟨ha, txStep_cases h⟩))
  · next w ha => exact .inr (.inr (.inr (.inl ⟨w, ha, h⟩)))
  · next ha => cases h; exact .inr (.inr (.inr (.inr ⟨ha, rfl⟩)))

/-- A step is its operation and then the edge of its response. -/
theorem step_of_operate {s t : State} (h : operate s = .next t) : step s = .next (responseEdge s t) := by
  rw [step, h]

/-- A step that answers has run its operation. -/
theorem step_cases {s t : State} (h : step s = .next t) : ∃ u, operate s = .next u ∧ t = responseEdge s u := by
  unfold step at h
  split at h
  · next u hu => cases h; exact ⟨u, hu, rfl⟩
  · cases h
  · cases h

/-- The edge of the response, by the events the operation has put out. -/
theorem responseEdge_eq {s t : State} {evs : List Output} (h : t.outs = s.outs ++ evs) :
    responseEdge s t =
      if evs.any Output.isResponse then
        if t.rst then takeReset (t.tick.withdrawResponses s.outs.length) else t.tick
      else t := by
  rw [responseEdge, newOuts, h, List.drop_left]

/-- What a reset at the edge of the response leaves of the events of the operation: the bytes. -/
theorem withdrawn_outs {s t : State} {evs : List Output} (h : t.outs = s.outs ++ evs) :
    (takeReset (t.tick.withdrawResponses s.outs.length)).outs = s.outs ++ evs.filter fun e => !e.isResponse := by
  simp only [takeReset_outs, State.withdrawResponses_outs, State.tick_outs, h, List.take_left, List.drop_left]

/-- What each action says of the state (42_frame_encoder.md R161). -/
theorem State.action_cases (s : State) :
    (s.action = .reset ∧ s.rst = true) ∨
    (s.action = .init ∧ s.rst = false ∧ s.encState = .uninitialized) ∨
    (s.action = .tx ∧ s.rst = false ∧ s.encState = .ready ∧ s.txActive = true) ∨
    (∃ w ws, s.action = .cmd w ∧ s.rst = false ∧ s.accepts = true ∧ s.cmdQueue = w :: ws) ∨
    (s.action = .idle ∧ s.rst = false ∧ s.accepts = true ∧ s.cmdQueue = []) := by
  unfold State.action
  cases hr : s.rst with
  | true => simp
  | false =>
    cases he : s.encState with
    | uninitialized => simp
    | ready =>
      cases ht : s.txActive with
      | true => simp
      | false =>
        have ha : s.accepts = true := s.accepts_iff.2 ⟨he, ht⟩
        cases hq : s.cmdQueue with
        | nil => simp [ha]
        | cons w ws => simp [ha]

end Sys2Proof.Machine
end

