-- ==== Sys2Proof/Laws/PerInstr.lean ====
section
/-! SUPPORT. What holds of every command as syntax, one lemma per constructor of Instr. -/
namespace Sys2Proof.Laws

/-- The encoded word carries the command's opcode in `cmd[67:64]` (30_encoding.md R77) and zero in every bit its
operation does not read (R89). -/
def EncodedFields.Statement (i : Instr) : Prop :=
  (encode i).toNat / 2 ^ 64 = (opcode i).toNat ∧
  match i with
  | .pix _ _ _ _ _ => (encode i).toNat / 2 ^ 24 % 2 ^ 8 = 0
  | .glut _ => (encode i).toNat / 2 ^ 8 % 2 ^ 56 = 0
  | .soff _ _ => (encode i).toNat % 2 ^ 32 = 0
  | _ => (encode i).toNat % 2 ^ 64 = 0

theorem EncodedFields.nop : EncodedFields.Statement .nop := ⟨by decide, by decide⟩
theorem EncodedFields.pix (x y : Coord) (r g b : Byte) : EncodedFields.Statement (.pix x y r g b) := by
  simp only [EncodedFields.Statement, encode, packCmd_toNat, packPixel_toNat]
  omega
theorem EncodedFields.send : EncodedFields.Statement .send := ⟨by decide, by decide⟩
theorem EncodedFields.glut (i : Byte) : EncodedFields.Statement (.glut i) := by
  simp only [EncodedFields.Statement, encode, packCmd_toNat, packPixel_toNat, BitVec.ofNat_eq_ofNat, BitVec.toNat_ofNat]
  omega
theorem EncodedFields.soff (x y : Coord) : EncodedFields.Statement (.soff x y) := by
  simp only [EncodedFields.Statement, encode, packCmd_toNat, BitVec.ofNat_eq_ofNat, BitVec.toNat_ofNat]
  omega
theorem EncodedFields.rsvd5 : EncodedFields.Statement .rsvd5 := ⟨by decide, by decide⟩
theorem EncodedFields.rsvd6 : EncodedFields.Statement .rsvd6 := ⟨by decide, by decide⟩
theorem EncodedFields.rsvd7 : EncodedFields.Statement .rsvd7 := ⟨by decide, by decide⟩
theorem EncodedFields.rsvd8 : EncodedFields.Statement .rsvd8 := ⟨by decide, by decide⟩
theorem EncodedFields.rsvd9 : EncodedFields.Statement .rsvd9 := ⟨by decide, by decide⟩
theorem EncodedFields.rsvdA : EncodedFields.Statement .rsvdA := ⟨by decide, by decide⟩
theorem EncodedFields.rsvdB : EncodedFields.Statement .rsvdB := ⟨by decide, by decide⟩
theorem EncodedFields.rsvdC : EncodedFields.Statement .rsvdC := ⟨by decide, by decide⟩
theorem EncodedFields.rsvdD : EncodedFields.Statement .rsvdD := ⟨by decide, by decide⟩
theorem EncodedFields.rsvdE : EncodedFields.Statement .rsvdE := ⟨by decide, by decide⟩
theorem EncodedFields.rsvdF : EncodedFields.Statement .rsvdF := ⟨by decide, by decide⟩

end Sys2Proof.Laws
end

