-- ==== Sys2Proof/Laws/Step.lean ====
section
/-! SUPPORT. What a step can do, said once: the operation, then the edge of its response, where a reset may replace the
response. -/
namespace Sys2Proof.Safety

open Sys2Proof.Machine

/-- `rsp_valid` is 1 in a step that puts out a response, and in no other (10_state.md R32). -/
theorem rspPins_ne_none (s t : State) : rspPins s t ≠ none ↔ (newOuts s t).any Output.isResponse = true := by
  unfold rspPins
  generalize newOuts s t = l
  induction l with
  | nil => simp
  | cons e l ih => cases e <;> simp_all [Output.isResponse]

/-- What a command puts out at once. -/
theorem command_outs {i : Instr} {s t : State} (hs : s.accepts = true) (h : exec i s = .next t) :
    (i = .send ∧ t.outs = s.outs) ∨ (i ≠ .send ∧ ∃ c d, t.outs = s.outs ++ [.rsp c d]) := by
  rcases exec_cases h with ⟨hn, _⟩ | ⟨_, he⟩
  · rw [hs] at hn; cases hn
  · cases he with
    | answered c d hi => exact .inr ⟨hi, c, d, rfl⟩
    | stored x y r g b hi => exact .inr ⟨by rw [hi]; simp, .ok, 0, rfl⟩
    | started hi => exact .inl ⟨hi, rfl⟩

/-- No command uses up a level of `rst`. -/
theorem command_rstPins {i : Instr} {s t : State} (h : exec i s = .next t) : t.rstPins = s.rstPins := by
  rcases exec_cases h with ⟨_, rfl⟩ | ⟨_, he⟩
  · rfl
  · cases he <;> rfl

/-- What an operation puts out, in which a response stands exactly when one is due, and the one level of `rst` it uses
up. -/
theorem operate_outs {s u : State} (h : operate s = .next u) :
    ∃ evs, u.outs = s.outs ++ evs ∧ evs.any Output.isResponse = responseDue s ∧ u.rstPins = s.rstPins.tail := by
  rcases operate_cases h with ⟨ha, rfl⟩ | ⟨ha, h⟩ | ⟨ha, h⟩ | ⟨w, ha, h⟩ | ⟨ha, rfl⟩
  · exact ⟨[], by simp, by simp [responseDue, ha], rfl⟩
  · rw [initStep_eq] at h
    cases h
    exact ⟨[], by simp, by simp [responseDue, ha], rfl⟩
  · cases h with
    | silent hp =>
      exact ⟨[], by simp, by simp [responseDue, ha, sinkAnswer, show s.sinkPins = [] from hp], rfl⟩
    | waited p ps hp hans =>
      exact ⟨[], by simp, by simp [responseDue, ha, sinkAnswer, show s.sinkPins = p :: ps from hp, hans], rfl⟩
    | failed p ps hp hans =>
      exact ⟨[.rsp .transmissionError 0], rfl,
        by simp [responseDue, ha, sinkAnswer, show s.sinkPins = p :: ps from hp, hans, Output.isResponse], rfl⟩
    | acceptedLast p ps hp hans hl =>
      refine ⟨[.byte (s.frameByte s.txIdx.toNat) true, .rsp .ok 0], by simp, ?_, rfl⟩
      have hl' : s.atLastByte = true := by simpa [State.atLastByte] using hl
      simp [responseDue, ha, sinkAnswer, show s.sinkPins = p :: ps from hp, hans, hl', Output.isResponse]
    | acceptedMore p ps hp hans hl =>
      refine ⟨[.byte (s.frameByte s.txIdx.toNat) false], by simp, ?_, rfl⟩
      have hl' : s.atLastByte = false := by
        simp only [State.tick_txIdx, State.tick_cfg] at hl
        simp only [State.atLastByte, decide_eq_false_iff_not]
        omega
      simp [responseDue, ha, sinkAnswer, show s.sinkPins = p :: ps from hp, hans, hl', Output.isResponse]
  · have hs : s.tick.takeCommand.accepts = true := by
      rcases s.action_cases with ⟨h', _⟩ | ⟨h', _⟩ | ⟨h', _⟩ | ⟨_, _, _, _, h2, _⟩ | ⟨h', _⟩
      · rw [h'] at ha; cases ha
      · rw [h'] at ha; cases ha
      · rw [h'] at ha; cases ha
      · exact h2
      · rw [h'] at ha; cases ha
    have hr := command_rstPins h
    rcases command_outs hs h with ⟨hi, ho⟩ | ⟨hi, c, d, ho⟩
    · exact ⟨[], by simp [ho], by simp [responseDue, ha, hi], hr⟩
    · exact ⟨[.rsp c d], by simp [ho], by simp [responseDue, ha, hi, Output.isResponse], hr⟩
  · exact ⟨[], by simp, by simp [responseDue, ha], rfl⟩

/-- Every step: no response due; or the response produced at its edge; or a reset at that edge, which replaces it. -/
theorem step_edge_cases {s t : State} (h : step s = .next t) :
    ∃ u evs, operate s = .next u ∧ u.outs = s.outs ++ evs ∧ evs.any Output.isResponse = responseDue s ∧
      u.rstPins = s.rstPins.tail ∧
      ((responseDue s = false ∧ t = u) ∨
        (responseDue s = true ∧ s.rstAtResponse = false ∧ t = u.tick) ∨
        (responseDue s = true ∧ s.rstAtResponse = true ∧ t = takeReset (u.tick.withdrawResponses s.outs.length))) := by
  obtain ⟨u, hu, rfl⟩ := step_cases h
  obtain ⟨evs, ho, hd, hr⟩ := operate_outs hu
  have hrst : u.rst = s.rstAtResponse := by simp only [State.rst, State.rstAtResponse, hr, State.tick_rstPins]
  refine ⟨u, evs, hu, ho, hd, hr, ?_⟩
  rw [responseEdge_eq ho, hd, hrst]
  cases responseDue s <;> cases s.rstAtResponse <;> simp

/-- A step whose operation answers nothing is its operation. -/
theorem step_of_quiet {s u : State} (h : operate s = .next u) (hd : responseDue s = false) : step s = .next u := by
  obtain ⟨evs, ho, he, _⟩ := operate_outs h
  rw [step_of_operate h, responseEdge_eq ho, he, hd]
  rfl

/-- A step whose operation answers is its operation and one more edge, when no reset comes there. -/
theorem step_of_answered {s u : State} (h : operate s = .next u) (hd : responseDue s = true)
    (hr : s.rstAtResponse = false) : step s = .next u.tick := by
  obtain ⟨evs, ho, he, hp⟩ := operate_outs h
  have hu : u.rst = false := by rw [← hr]; simp only [State.rst, State.rstAtResponse, hp, State.tick_rstPins]
  rw [step_of_operate h, responseEdge_eq ho, he, hd, hu]
  rfl

/-- A step whose response a reset replaces. -/
theorem step_of_cut {s u : State} (h : operate s = .next u) (hd : responseDue s = true) (hr : s.rstAtResponse = true) :
    step s = .next (takeReset (u.tick.withdrawResponses s.outs.length)) := by
  obtain ⟨evs, ho, he, hp⟩ := operate_outs h
  have hu : u.rst = true := by rw [← hr]; simp only [State.rst, State.rstAtResponse, hp, State.tick_rstPins]
  rw [step_of_operate h, responseEdge_eq ho, he, hd, hu]
  rfl

/-- A step that takes in no reset is its operation, but for the level of `rst` at the edge of a response. -/
theorem step_of_noReset {s t : State} (h : step s = .next t) (hr : takesReset s = false) :
    s.rst = false ∧ ∃ u, operate s = .next u ∧ (t = u ∨ t = u.tick) := by
  simp only [takesReset, Bool.or_eq_false_iff, Bool.and_eq_false_iff] at hr
  obtain ⟨u, evs, hu, _, _, _, ⟨_, ht⟩ | ⟨_, _, ht⟩ | ⟨hd, ha, _⟩⟩ := step_edge_cases h
  · exact ⟨hr.1, u, hu, .inl ht⟩
  · exact ⟨hr.1, u, hu, .inr ht⟩
  · simp [hd, ha] at hr

end Sys2Proof.Safety
end

