-- ==== Sys2Proof/Laws/Run.lean ====
section
/-! SUPPORT. Runs step by step, so that an induction over a run never unfolds the host's recursion. -/
namespace Sys2Proof.Safety

open Sys2Proof.Machine

@[simp] theorem run_zero (s : State) : run 0 s = .next s := rfl

/-- The host's run, one step at a time, for any machine. -/
theorem coreRun_succ (M : Host.Core) {s t : M.State} (k : Nat) (h : M.step s = .next t) :
    M.run (k + 1) s = M.run k t := by
  simp only [Host.Core.run, h]

/-- The host's run that answers has answered its first step, for any machine. -/
theorem coreRun_succ_cases (M : Host.Core) {s u : M.State} {k : Nat} (h : M.run (k + 1) s = .next u) :
    ∃ t, M.step s = .next t ∧ M.run k t = .next u := by
  simp only [Host.Core.run] at h
  split at h
  · next t ht => exact ⟨t, ht, h⟩
  · cases h
  · cases h

/-- A run of `k + 1` steps is one step and a run of `k`. -/
theorem run_succ {s t : State} (k : Nat) (h : step s = .next t) : run (k + 1) s = run k t :=
  coreRun_succ Sys2Proof.core k h

/-- A run that answers has answered its first step. -/
theorem run_succ_cases {s u : State} {k : Nat} (h : run (k + 1) s = .next u) :
    ∃ t, step s = .next t ∧ run k t = .next u :=
  coreRun_succ_cases Sys2Proof.core h

/-- Runs compose. -/
theorem run_add {s t : State} (a b : Nat) (h : run a s = .next t) : run (a + b) s = run b t := by
  induction a generalizing s with
  | zero =>
    cases h
    rw [Nat.zero_add]
  | succ a ih =>
    obtain ⟨u, hu, hr⟩ := run_succ_cases h
    rw [Nat.succ_add, run_succ _ hu]
    exact ih hr

/-- With no reset to come, `rst` is 0 now. -/
theorem NoReset.rst_eq_false {s : State} (h : NoReset s) : s.rst = false := by
  unfold State.rst
  cases hr : s.rstPins with
  | nil => rfl
  | cons b bs => exact h b (by simp [hr])

/-- With no reset to come, none comes after an edge either. -/
theorem NoReset.of_tail {s t : State} (h : NoReset s) (ht : t.rstPins = s.rstPins.tail) : NoReset t :=
  fun b hb => h b (List.mem_of_mem_tail (ht ▸ hb))

/-- With no reset to come, a step is its operation and none comes after it. -/
theorem NoReset.step {s u : State} (h : NoReset s) (hu : operate s = .next u) :
    ∃ t, Machine.step s = .next t ∧ (t = u ∨ t = u.tick) ∧ NoReset t := by
  have hr : takesReset s = false := by
    have h1 := h.rst_eq_false
    have h2 : s.rstAtResponse = false := NoReset.rst_eq_false (h.of_tail (t := s.tick) rfl)
    simp [takesReset, h1, h2]
  obtain ⟨_, _, _, hp⟩ := operate_outs hu
  obtain ⟨_, v, hv, ht⟩ := step_of_noReset (step_of_operate hu) hr
  rw [hu] at hv
  cases hv
  refine ⟨_, step_of_operate hu, ht, ?_⟩
  rcases ht with ht | ht <;> rw [ht]
  · exact h.of_tail hp
  · exact (h.of_tail hp).of_tail rfl

end Sys2Proof.Safety
end

