-- ==== Sys2Proof/Tests/Slice0.lean ====
section
/-! SUPPORT. Tests: the checks refuse an ill-formed term each, words written out from the spec decode, one step of each
command and event, and for each statement with hypotheses a state and operands that meet them. Expected values come from
95_test_vectors.md, whose entry each test names. -/
namespace Sys2Proof.Tests

open Sys2Proof.Machine Sys2Proof.Safety

/-! Small states. -/

def cfg11 : Config := { width := 1, height := 1 }
def cfg21 : Config := { width := 2, height := 1 }
def cfg22 : Config := { width := 2, height := 2 }
def cfg34 : Config := { width := 3, height := 4 }
def cfgWide : Config := { width := 21845, height := 1 }
def cfgTall : Config := { width := 1, height := 21845 }

/-- A Ready block with the given bytes written. -/
def readyOf (c : Config) (m : Memory) : State := { State.resetOf c with encState := .ready, frame := m }

/-- The 3 by 4 block of 95_test_vectors.md 2.4 and 2.6, its header written. -/
def ready34 : State := readyOf cfg34 [(0, 0x00), (1, 0x00), (2, 0x00), (3, 0x24)]

/-- The 1 by 1 block of 95_test_vectors.md 2.7. -/
def ready11 : State :=
  readyOf cfg11 [(0, 0x00), (1, 0x00), (2, 0x00), (3, 0x03), (4, 0x2E), (5, 0x00), (6, 0x00)]

/-- `ready11` with the byte at address `k` on offer, and the sink's coming pins. -/
def sending11 (k : FrameIdx) (ps : List SinkPins) : State :=
  { ready11 with txActive := true, txIdx := k, sinkPins := ps }

def acceptPins : SinkPins := { ready := true, fail := false }
def waitPins : SinkPins := { ready := false, fail := false }
def failPins : SinkPins := { ready := false, fail := true }
def bothPins : SinkPins := { ready := true, fail := true }

/-- A transmission with the sink ready and a command presented, at the edge of a reset. -/
def resetting11 : State := { sending11 3 [acceptPins] with rstPins := [true], cmdQueue := [0#68] }

/-- `ready11` with command words presented. -/
def presenting11 (ws : List CmdWord) (ps : List SinkPins) : State := { ready11 with cmdQueue := ws, sinkPins := ps }

/-- A step whose own edge has no reset and whose response's edge has one. -/
def cutting (s : State) : State := { s with rstPins := [false, true] }

/-- Something read off the next state, if there is one. -/
def onNext {α : Type} (o : Host.Outcome State Fault Refusal) (f : State → α) : Option α :=
  match o with
  | .next s => some (f s)
  | .fault _ | .refused _ => none

theorem noReset_nil {s : State} (h : s.rstPins = []) : NoReset s := by simp [NoReset, h]

/-! The checks. -/

/-- Every decoded command is well formed; a host may not use a reserved one (R83). -/
theorem test_reserved_opcodes_named : Instr.reserved .rsvd5 = true ∧ Instr.reserved .rsvdF = true ∧
    Instr.reserved .send = false ∧ Instr.wellFormed .rsvd5 = true := by decide

/-- A number with bit 68 set is no command word (R75). -/
theorem test_word_too_wide : isCommandWord (2 ^ 68) = false ∧ isCommandWord (2 ^ 68 - 1) = true ∧
    decodeTableWord 72 (2 ^ 68) = none := by decide

/-- V-CFG-15 to 19: ConstructionError, tested first. -/
theorem test_config_construction_error : checkConfig 0 5 = some .constructionError ∧
    checkConfig 5 0 = some .constructionError ∧ checkConfig 0 0 = some .constructionError ∧
    checkConfig (-1) 5 = some .constructionError ∧ checkConfig (-1) (-30000) = some .constructionError := by decide

/-- V-CFG-5, 7, 9, 11, 13, 14: EncodingError. -/
theorem test_config_encoding_error : checkConfig 21846 1 = some .encodingError ∧
    checkConfig 146 150 = some .encodingError ∧ checkConfig 148 148 = some .encodingError ∧
    checkConfig 255 86 = some .encodingError ∧ checkConfig 256 256 = some .encodingError ∧
    checkConfig 65535 1 = some .encodingError := by decide

/-- V-CFG-1 to 4, 6, 8, 10, 12: legal. -/
theorem test_config_legal : checkConfig 1 1 = none ∧ checkConfig 10 10 = none ∧ checkConfig 21845 1 = none ∧
    checkConfig 1 21845 = none ∧ checkConfig 145 150 = none ∧ checkConfig 147 148 = none ∧
    checkConfig 255 85 = none ∧ checkConfig 5 4369 = none := by decide

/-- Sizes of V-CFG-1, V-CFG-3 and of 3x4 (2.4). -/
theorem test_config_sizes : cfg11.frameLen = 7 ∧ cfgWide.payloadLen = 65535 ∧ cfgWide.frameLen = 65539 ∧
    cfg34.pixels = 12 ∧ cfg34.frameLen = 40 := by decide

/-- Each operand of an assembler line is held to its field (R76, R89). -/
theorem test_assembler_operands_checked : AsmLine.wellFormed (.pix 65536 0 0) = false ∧
    AsmLine.wellFormed (.pix 0 65536 0) = false ∧ AsmLine.wellFormed (.pix 0 0 (2 ^ 32)) = false ∧
    AsmLine.wellFormed (.glut 256) = false ∧ AsmLine.wellFormed (.soff 65536 0) = false ∧
    AsmLine.wellFormed (.soff 0 65536) = false := by decide

/-- Memory out of address order, or with an address twice, is not canonical. -/
theorem test_memory_not_canonical : ¬ Memory.wf [(3, 0), (2, 0)] ∧ ¬ Memory.wf [(3, 0), (3, 1)] := by decide

/-! Words written out from the spec's encodings. -/

/-- V-DEC-1, V-DEC-2. -/
theorem test_decode_nop : decode 0x00000000000000000#68 = .nop ∧ decode 0x0FFFFFFFFFFFFFFFF#68 = .nop := by decide

/-- V-DEC-3 to V-DEC-5, and V-PIX-1. -/
theorem test_decode_pix : decode 0x10000000100800000#68 = .pix 0 1 0x80 0 0 ∧
    decode 0x100000001FF800000#68 = .pix 0 1 0x80 0 0 ∧
    decode 0x1FFFFFFFF00000000#68 = .pix 65535 65535 0 0 0 ∧
    decode 0x10001000000123456#68 = .pix 1 0 0x12 0x34 0x56 := by decide

/-- Every field of a PIX word at its own place: `{0x1, x = 0x1234, y = 0x5678, pix = 0x9ABCDEF0}` (R76, R78). -/
theorem test_decode_pix_fields : decode 0x1123456789ABCDEF0#68 = .pix 0x1234 0x5678 0xBC 0xDE 0xF0 := by decide

/-- V-DEC-6. -/
theorem test_decode_send : decode 0x20000000000000000#68 = .send ∧ decode 0x2123456789ABCDEF0#68 = .send := by decide

/-- V-DEC-7, V-DEC-8. -/
theorem test_decode_glut : decode 0x30000000000000080#68 = .glut 0x80 ∧
    decode 0x3ABCD1234DEADBE80#68 = .glut 0x80 := by decide

/-- V-DEC-9, V-DEC-10. -/
theorem test_decode_soff : decode 0x40001000300000000#68 = .soff 1 3 ∧
    decode 0x400010003FFFFFFFF#68 = .soff 1 3 := by decide

/-- V-DEC-11 to V-DEC-13, V-RSV-3: each reserved opcode. -/
theorem test_decode_reserved : decode 0x50000000000000000#68 = .rsvd5 ∧ decode 0x60000000000000000#68 = .rsvd6 ∧
    decode 0x70000000000000000#68 = .rsvd7 ∧ decode 0x80000000000000000#68 = .rsvd8 ∧
    decode 0x90001000200000003#68 = .rsvd9 ∧ decode 0xA0000000000000000#68 = .rsvdA ∧
    decode 0xB0000000000000000#68 = .rsvdB ∧ decode 0xC0000000000000000#68 = .rsvdC ∧
    decode 0xD0000000000000000#68 = .rsvdD ∧ decode 0xE0000000000000000#68 = .rsvdE ∧
    decode 0xFFFFFFFFFFFFFFFFF#68 = .rsvdF := by decide

/-- The words of P1 and V-SOFF-4, V-GLUT-9 from their operands. -/
theorem test_encode_words : encode (.pix 1 1 0x40 0x80 0xC0) = 0x100010001004080C0#68 ∧
    encode .send = 0x20000000000000000#68 ∧ encode (.soff 1 3) = 0x40001000300000000#68 ∧
    encode (.glut 128) = 0x30000000000000080#68 ∧ encode .nop = 0x00000000000000000#68 := by decide

/-- V-PIX-2: an assembler PIX keeps all 32 bits of its operand (R89). -/
theorem test_assembler_pix_word : AsmLine.word (.pix 1 3 0xFFFFFFFF) = 0x100010003FFFFFFFF#68 := by decide

/-- P1: the words of SEND_FRAME on a 2 by 2 display, in order. -/
theorem test_send_frame_words :
    ((sendFrame cfg22 fun x y => [0x000000, 0x800000, 0xFFFFFF, 0x4080C0].getD (2 * x + y) 0).map AsmLine.word) =
      [0x10000000000000000#68, 0x10000000100800000#68, 0x10001000000FFFFFF#68, 0x100010001004080C0#68,
        0x20000000000000000#68] := by decide

/-! One step each. -/

/-- V-NOP-1. -/
theorem test_nop : onNext (exec .nop ready34) (·.outs) = some [.rsp .ok 0] := by decide

/-- V-GLUT-3, 4, 7, 9, 13, 14. -/
theorem test_glut : [0x15, 0x16, 81, 128, 254, 255].map (fun i => onNext (exec (.glut i) ready34) (·.outs)) =
    [0, 1, 15, 46, 253, 255].map (fun d => some [.rsp .ok d]) := by decide

/-- V-SOFF-1 to V-SOFF-6: the whole map's corners. -/
theorem test_soff :
    [((0, 0) : Coord × Coord), (0, 3), (1, 0), (1, 3), (2, 0), (2, 3)].map
      (fun p => onNext (exec (.soff p.1 p.2) ready34) (·.outs)) =
    [0, 9, 21, 12, 24, 33].map (fun d => some [.rsp .ok d]) := by decide

/-- V-SOFF-7 to V-SOFF-9. -/
theorem test_soff_outside :
    [((3, 0) : Coord × Coord), (0, 4), (2, 4)].map (fun p => onNext (exec (.soff p.1 p.2) ready34) (·.outs)) =
    [some [.rsp .coordError 0], some [.rsp .coordError 0], some [.rsp .coordError 0]] := by decide

/-- V-PIX-4: the bytes of the slot, each lane with its own channel. -/
theorem test_pix : onNext (exec (.pix 2 2 0x15 0x16 0x80) ready34) (fun t => (t.frame, t.outs)) =
    some ([(0, 0x00), (1, 0x00), (2, 0x00), (3, 0x24), (34, 0x00), (35, 0x01), (36, 0x2E)], [.rsp .ok 0]) := by decide

/-- V-PIX-8: nothing written. -/
theorem test_pix_outside : onNext (exec (.pix 0 4 0xFF 0xFF 0xFF) ready34) (fun t => (t.frame, t.outs)) =
    some (ready34.frame, [.rsp .coordError 0]) := by decide

/-- V-TX-1, first row: SEND answers nothing yet and offers byte 0. -/
theorem test_send : onNext (exec .send ready11) (fun t => (t.txActive, t.txIdx, t.outs)) =
    some (true, 0, []) := by decide

/-- V-RSV-1 to V-RSV-5. -/
theorem test_reserved :
    [Instr.rsvd5, .rsvd6, .rsvd7, .rsvd8, .rsvd9, .rsvdA, .rsvdB, .rsvdC, .rsvdD, .rsvdE, .rsvdF].map
      (fun i => onNext (exec i ready34) (·.outs)) =
    List.replicate 11 (some [.rsp .illegalCommand 0]) := by decide

/-- V-INIT-1, V-INIT-7: the header, its length high byte first. -/
theorem test_init : onNext (step (State.resetOf cfg11)) (fun t => (t.encState, t.frame)) =
      some (.ready, [(0, 0x00), (1, 0x00), (2, 0x00), (3, 0x03)]) ∧
    onNext (step (State.resetOf cfgWide)) (·.frame) =
      some [(0, 0x00), (1, 0x00), (2, 0xFF), (3, 0xFF)] := by decide

/-- V-TX-1, last step: the seventh byte is marked last and the response comes with it. -/
theorem test_tx_last : onNext (step (sending11 6 [acceptPins])) (fun t => (t.txActive, t.outs)) =
    some (false, [.byte 0x00 true, .rsp .ok 0]) := by decide

/-- V-TX-6: fail wins over ready, and nothing is delivered. -/
theorem test_tx_fail_wins : onNext (step (sending11 2 [bothPins])) (fun t => (t.txActive, t.frame, t.outs)) =
    some (false, ready11.frame, [.rsp .transmissionError 0]) := by decide

/-- V-RST-3: reset in a transmission, with the sink ready and a command presented. -/
theorem test_reset : onNext (step resetting11) (fun t => (t.encState, t.txActive, t.txIdx)) =
      some (.uninitialized, false, 0) ∧
    onNext (step resetting11) (fun t => (t.frame, t.outs)) = some ([], []) := by decide

/-- R197: a reset at the edge of the response of a GLUT, with the command gone from the port and nothing put out. -/
theorem test_reset_at_response :
    onNext (step (cutting (presenting11 [0x30000000000000080#68] []))) (fun t => (t.encState, t.outs, t.cmdQueue)) =
      some (.uninitialized, [], []) := by decide

/-- R197: a reset at the edge of the response of a SEND, with the last byte already accepted. -/
theorem test_reset_at_send_response :
    onNext (step (cutting (sending11 6 [acceptPins]))) (fun t => (t.encState, t.outs)) =
      some (.uninitialized, [.byte 0x00 true]) := by decide

/-- Entries the vectors use beside those of V-GLUT (2.3). -/
theorem test_gamma_entries : [0x10, 0x12, 0x17, 0x20, 0x30, 0x33, 0x34, 0x56, 0x66, 0x99, 0xC0, 0xCC].map gamma =
    [0, 0, 1, 1, 4, 5, 5, 17, 26, 71, 125, 146] := by decide

/-! Witnesses: for each statement with hypotheses, concrete values that meet them all, one for each clause. -/

/-- DecoderFollowsOpcodeMap: a word for each value of `cmd[67:64]`, and two words that agree on what GLUT reads. -/
theorem witness_opcode_clauses :
    [0x0FFFFFFFFFFFFFFFF#68, 0x1FFFFFFFF00000000#68, 0x2123456789ABCDEF0#68, 0x3ABCD1234DEADBE80#68,
      0x400010003FFFFFFFF#68, 0x5FFFFFFFFFFFFFFFF#68, 0x60000000000000000#68, 0x70000000000000000#68,
      0x80000000000000000#68, 0x90001000200000003#68, 0xA0000000000000000#68, 0xB0000000000000000#68,
      0xC0000000000000000#68, 0xD0000000000000000#68, 0xE0000000000000000#68, 0xFFFFFFFFFFFFFFFFF#68].map
      (fun w => (w.extractLsb' 64 4).toNat) = List.range 16 ∧
    0x3ABCD1234DEADBE80#68 &&& readMask 3 = 0x30000000000000080#68 &&& readMask 3 := by decide

/-- DecodeReadsExactlyItsFields: words that agree on the bits read, and words that do not. -/
theorem witness_fields_read :
    0x3ABCD1234DEADBE80#68 &&& readMask (CmdWord.op 0x3ABCD1234DEADBE80#68) =
      0x30000000000000080#68 &&& readMask (CmdWord.op 0x3ABCD1234DEADBE80#68) ∧
    0x30000000000000081#68 &&& readMask (CmdWord.op 0x30000000000000081#68) ≠
      0x30000000000000080#68 &&& readMask (CmdWord.op 0x30000000000000081#68) := by decide

/-- AssemblerLinesNameTheirOperation: each form at the largest operands. -/
theorem witness_assembler_lines : AsmLine.wellFormed .nop = true ∧
    AsmLine.wellFormed (.pix 65535 65535 0xFFFFFFFF) = true ∧ AsmLine.wellFormed .send = true ∧
    AsmLine.wellFormed (.glut 255) = true ∧ AsmLine.wellFormed (.soff 65535 65535) = true := by decide

/-- EncodeFrameVisitsEveryCoordinate: a word of a frame, and its last coordinate. -/
theorem witness_encode_frame :
    0x100010001004080C0#68 ∈ (encodeFrame cfg22 fun _ _ => 0x4080C0).map AsmLine.word ∧
    inDisplay cfg22 1 1 = true := by decide

/-- OnlyLegalConfigurationsAreBuilt: each clause at its boundary. -/
theorem witness_config_clauses : ((0 : Int) ≤ 0 ∨ (5 : Int) ≤ 0) ∧ ((5 : Int) ≤ 0 ∨ (0 : Int) ≤ 0) ∧
    ((0 : Int) < 21846 ∧ (0 : Int) < 1 ∧ 3 * (21846 : Int) * 1 > 0xFFFF) ∧
    ((0 : Int) < 21845 ∧ (0 : Int) < 1 ∧ 3 * (21845 : Int) * 1 ≤ 0xFFFF) := by decide

/-- The statements about coordinates in the display: its corners, the largest configurations, and two configurations
of one height (OffsetIsSerpentine, OffsetFitsSixteenBits, PixelSlotLiesInPayload). -/
theorem witness_in_display : inDisplay cfg34 0 0 = true ∧ inDisplay cfg34 2 3 = true ∧
    inDisplay cfgWide 21844 0 = true ∧ inDisplay cfgTall 0 21844 = true ∧ cfg21.height = cfgWide.height := by decide

/-- The first coordinates outside, in a Ready, idle block. -/
theorem witness_outside_display : inDisplay cfg34 3 0 = false ∧ inDisplay cfg34 0 4 = false ∧
    ready34.cfg = cfg34 ∧ ready34.accepts = true := by decide

/-- PixelSlotLiesInPayload: a state of the configuration and three bytes. -/
theorem witness_pixel_slot : ready34.cfg = cfg34 ∧ inDisplay cfg34 2 3 = true ∧
    ([0xFF, 0xFF, 0xFF] : List Byte).length = 3 := by decide

/-- SerpentineIsBijection: the last coordinate and the last slot, and one pixel's bytes named twice. -/
theorem witness_bijection : (2 < cfg34.width ∧ 3 < cfg34.height) ∧ 11 < cfg34.pixels ∧
    inDisplay cfg34 2 3 = true ∧ pixAddress cfg34 2 3 ≤ 39 ∧ 39 < pixAddress cfg34 2 3 + 3 := by decide

/-- SerpentineDirection: heights 1 and 2, columns 0 and 1, and rows 0 and 1 of height 2. -/
theorem witness_direction : (1 ≤ 2 ∧ 2 ≤ 2) ∧ (1 ≤ 1 ∧ 1 = 1) ∧ 0 % 2 = 0 ∧ 1 % 2 = 1 ∧ 0 + 1 < 2 ∧ 1 < 2 := by decide

/-- GammaMeetsIntegerCriterion: both alternatives, at 0x80 (S7) and at the last input mapped to 0. -/
theorem witness_gamma_criterion :
    (1 ≤ 46 ∧ (2 * 46 - 1) ^ 2 * 255 ^ 3 ≤ 4 * 128 ^ 5 ∧ 4 * 128 ^ 5 < (2 * 46 + 1) ^ 2 * 255 ^ 3) ∧
    4 * 21 ^ 5 < 255 ^ 3 := by decide

/-- GammaTableProperties and GammaTableChecks: ordered inputs, and the fixed points. -/
theorem witness_gamma_order : (0x80 : Byte) ≤ 0x81 ∧ gamma 0 = 0 ∧ gamma 255 = 255 ∧ gamma 21 = 0 ∧ gamma 22 ≠ 0 := by
  decide

/-- NopAnswersOk, GlutAnswersTableEntry, SoffAnswersOffset, SendStartsTransmission, ReservedOpcodesAnswerIllegalCommand:
a Ready, idle block, and a word of each opcode. -/
theorem witness_ready : ready34.encState = .ready ∧ ready34.txActive = false ∧
    [0x0FFFFFFFFFFFFFFFF#68, 0x2123456789ABCDEF0#68, 0x3ABCD1234DEADBE80#68, 0x400010003FFFFFFFF#68,
      0x5FFFFFFFFFFFFFFFF#68, 0xFFFFFFFFFFFFFFFFF#68].map (fun w => (w.extractLsb' 64 4).toNat) =
      [0, 2, 3, 4, 5, 15] ∧
    (21 : Byte).toNat ≤ 21 := by decide

/-- PixCorrectsAndStoresOnePixel: the last coordinate inside, the first ones outside, and the addresses beside a slot. -/
theorem witness_pix : ready34.encState = .ready ∧ ready34.txActive = false ∧
    ((2 : Coord).toNat < ready34.cfg.width ∧ (3 : Coord).toNat < ready34.cfg.height) ∧
    (3 : Coord).toNat ≥ ready34.cfg.width ∧ (4 : Coord).toNat ≥ ready34.cfg.height ∧
    33 < pixAddress ready34.cfg 2 2 ∧ pixAddress ready34.cfg 2 2 + 3 ≤ 37 := by decide

/-- PixLanesAreIndependent: V-PIX-1 and its permutation, with one lane equal in each pair of operands. -/
theorem witness_lanes : ready34.encState = .ready ∧ ready34.txActive = false ∧
    (1 : Coord).toNat < ready34.cfg.width ∧ (0 : Coord).toNat < ready34.cfg.height ∧
    24 < pixAddress ready34.cfg 1 0 ∧ pixAddress ready34.cfg 1 0 + 3 ≤ 28 := by decide

/-- SendStartsTransmission: a state whose next step is a TX step, which goes on. -/
theorem witness_tx_step : (sending11 2 [acceptPins]).action = .tx ∧ takesReset (sending11 2 [acceptPins]) = false ∧
    ∃ v, step (sending11 2 [acceptPins]) = .next v :=
  ⟨by decide, by decide, _, rfl⟩

/-- CommandWaitsWhilePortNotReady: both ways not to be ready, and each side of each pin. -/
theorem witness_port_not_ready : (State.resetOf cfg11).encState = .uninitialized ∧
    (sending11 0 []).txActive = true := by decide

theorem witness_pins : ready11.cmdReady = true ∧ resetting11.cmdReady = false ∧ (sending11 0 []).txValid = true ∧
    ready11.txValid = false ∧ ready11.encReady = true ∧ (State.resetOf cfg11).encReady = false := by decide

/-- CommandFrame: a PIX that is taken, an address in its slot's neighbour, and a command that is no SEND. -/
theorem witness_command_frame : (∃ t, exec (.pix 2 2 0x15 0x16 0x80) ready34 = .next t) ∧
    ∀ x y r g b, Instr.pix 2 2 0x15 0x16 0x80 = .pix x y r g b →
      33 < pixAddress ready34.cfg x y ∨ pixAddress ready34.cfg x y + 3 ≤ 33 :=
  ⟨⟨_, rfl⟩, by rintro x y r g b ⟨⟩; decide⟩

theorem witness_command_frame_nop : (∃ t, exec .nop ready34 = .next t) ∧ Instr.nop ≠ .send :=
  ⟨⟨_, rfl⟩, by decide⟩

/-- AnswersFollowResponseTable: each kind of answer is reached in `ready34`. -/
theorem witness_answers : ready34.accepts = true ∧ (∃ t, exec .send ready34 = .next t) ∧
    (∃ t, exec (.glut 255) ready34 = .next t) ∧ (∃ t, exec (.soff 2 3) ready34 = .next t) ∧
    (∃ t, exec (.soff 3 0) ready34 = .next t) ∧ ∃ t, exec .rsvdF ready34 = .next t :=
  ⟨by decide, ⟨_, rfl⟩, ⟨_, rfl⟩, ⟨_, rfl⟩, ⟨_, rfl⟩, _, rfl⟩

/-- Invariant states: Ready and idle, in a transmission (first byte, last byte), and right after reset. -/
theorem witness_inv_ready34 : Inv ready34 :=
  ⟨by decide, by decide, fun _ => ⟨rfl, rfl, rfl, rfl⟩, by decide, by decide⟩

theorem witness_inv_presenting11 : Inv (presenting11 [0x20000000000000000#68] [acceptPins]) :=
  ⟨by decide, by decide, fun _ => ⟨rfl, rfl, rfl, rfl⟩, by decide, by decide⟩

theorem witness_inv_sending : Inv (sending11 0 []) ∧ Inv (sending11 6 [acceptPins]) :=
  ⟨⟨by decide, by decide, fun _ => ⟨rfl, rfl, rfl, rfl⟩, by decide, by decide⟩,
    ⟨by decide, by decide, fun _ => ⟨rfl, rfl, rfl, rfl⟩, by decide, by decide⟩⟩

theorem witness_inv_uninitialized : Inv (State.resetOf cfg11) :=
  ⟨by decide, by decide, fun h => by simp [State.resetOf] at h, by decide, by decide⟩

/-- RepeatedPixLeavesFrame. -/
theorem witness_repeated_pix : Inv ready34 ∧ ready34.accepts = true :=
  ⟨witness_inv_ready34, by decide⟩

/-- PixOrderIsImmaterial: two coordinates of one column. -/
theorem witness_pix_order : Inv ready34 ∧ ready34.accepts = true ∧ inDisplay ready34.cfg 1 0 = true ∧
    inDisplay ready34.cfg 1 3 = true ∧ ¬((1 : Coord) = 1 ∧ (0 : Coord) = 3) :=
  ⟨witness_inv_ready34, by decide⟩

/-- StepRunsPresentedCommand. -/
theorem witness_step_runs : (presenting11 [0x30000000000000080#68] []).rst = false ∧
    (presenting11 [0x30000000000000080#68] []).encState = .ready ∧
    (presenting11 [0x30000000000000080#68] []).txActive = false ∧
    (presenting11 [0x30000000000000080#68] []).cmdQueue = 0x30000000000000080#68 :: [] ∧
    decode 0x30000000000000080#68 = .glut 0x80 ∧ Instr.wellFormed (.glut 0x80) = true ∧ Instr.glut 0x80 ≠ .send := by
  decide

/-- StepRunsPresentedCommand: a reset at the edge of the response, or none. -/
theorem witness_step_runs_edges : (presenting11 [0x30000000000000080#68] []).rstAtResponse = false ∧
    (cutting (presenting11 [0x30000000000000080#68] [])).rst = false ∧
    (cutting (presenting11 [0x30000000000000080#68] [])).accepts = true ∧
    (cutting (presenting11 [0x30000000000000080#68] [])).rstAtResponse = true := by decide

/-- PlacedCommandRunsNext: a word of a whole number of bytes, and of exactly 68 bits. -/
theorem witness_placed : 68 ≤ 72 ∧ 0x40001000300000000 < 2 ^ 68 ∧
    decodeTableWord 72 0x40001000300000000 = some (.soff 1 3) ∧
    decodeTableWord 68 (2 ^ 68 - 1) = some .rsvdF := by decide

/-- InitWritesHeader: the state after reset, a Ready block's step, and each configuration it names. -/
theorem witness_init : (State.resetOf cfg11).rst = false ∧ (State.resetOf cfg11).encState = .uninitialized ∧
    ready11.encState = .ready ∧ takesReset ready11 = false ∧ ∃ t, step ready11 = .next t :=
  ⟨by decide, by decide, by decide, by decide, _, rfl⟩

theorem witness_header_configs : ({ width := 10, height := 10 } : Config).frameLen = 304 ∧ cfg11.frameLen = 7 ∧
    cfgWide.frameLen = 65539 ∧ ({ width := 145, height := 150 } : Config).frameLen = 65254 ∧
    ({ width := 16, height := 16 } : Config).frameLen = 772 := by decide

/-- TxStepFollowsSinkAnswer: what its clauses share, at the first and the last byte. -/
theorem witness_tx_first : (sending11 0 [bothPins]).rst = false ∧ (sending11 0 [bothPins]).encState = .ready ∧
    (sending11 0 [bothPins]).txActive = true ∧
    (sending11 0 [bothPins]).txIdx.toNat < (sending11 0 [bothPins]).cfg.frameLen := by decide

theorem witness_tx_last : (sending11 6 [acceptPins]).rst = false ∧ (sending11 6 [acceptPins]).encState = .ready ∧
    (sending11 6 [acceptPins]).txActive = true ∧
    (sending11 6 [acceptPins]).txIdx.toNat < (sending11 6 [acceptPins]).cfg.frameLen ∧
    (sending11 6 [acceptPins]).txIdx.toNat = (sending11 6 [acceptPins]).cfg.frameLen - 1 ∧
    (sending11 6 [acceptPins]).rstAtResponse = false ∧ (sending11 0 [bothPins]).rstAtResponse = false ∧
    (sending11 5 [acceptPins]).txIdx.toNat ≠ (sending11 5 [acceptPins]).cfg.frameLen - 1 := by decide

/-- TxStepFollowsSinkAnswer: each answer, and no answer. -/
theorem witness_tx_answers : (sending11 0 []).sinkPins = [] ∧ (sending11 0 [bothPins]).sinkPins = bothPins :: [] ∧
    bothPins.fail = true ∧ failPins.fail = true ∧ (acceptPins.fail = false ∧ acceptPins.ready = true) ∧
    (waitPins.fail = false ∧ waitPins.ready = false) := by decide

/-- ResetWinsInEveryState, and ResetReplacesTransferAndResponse at the edge of a transfer. -/
theorem witness_reset : resetting11.rst = true ∧ takesReset resetting11 = true ∧ ∃ t, step resetting11 = .next t :=
  ⟨by decide, by decide, _, rfl⟩

/-- ResetReplacesTransferAndResponse at the edge of a response: a command, a failed and a successful end of a
transmission. -/
theorem witness_reset_at_response :
    (takesReset (cutting (presenting11 [0x30000000000000080#68] [])) = true ∧
      (cutting (presenting11 [0x30000000000000080#68] [])).action = .cmd 0x30000000000000080#68 ∧
      ∃ t, step (cutting (presenting11 [0x30000000000000080#68] [])) = .next t) ∧
    (takesReset (cutting (sending11 2 [failPins])) = true ∧ (cutting (sending11 2 [failPins])).action = .tx ∧
      ∃ t, step (cutting (sending11 2 [failPins])) = .next t) ∧
    (takesReset (cutting (sending11 6 [acceptPins])) = true ∧ (cutting (sending11 6 [acceptPins])).action = .tx ∧
      ∃ t, step (cutting (sending11 6 [acceptPins])) = .next t) :=
  ⟨⟨by decide, by decide, _, rfl⟩, ⟨by decide, by decide, _, rfl⟩, by decide, by decide, _, rfl⟩

/-- ResponseComesExactlyWhenDue: a response due and produced, none due, and one due that a reset replaces. -/
theorem witness_response : responseDue (presenting11 [0x30000000000000080#68] []) = true ∧
    takesReset (presenting11 [0x30000000000000080#68] []) = false ∧
    responseDue (presenting11 [0x20000000000000000#68] []) = false ∧ responseDue (sending11 6 [acceptPins]) = true ∧
    responseDue (sending11 5 [acceptPins]) = false ∧ responseDue (sending11 0 [failPins]) = true ∧
    responseDue (cutting (sending11 0 [failPins])) = true ∧ takesReset (cutting (sending11 0 [failPins])) = true := by
  decide

/-- IdleBlockKeepsItsState. -/
theorem witness_idle : ready11.rst = false ∧ ready11.encState = .ready ∧ ready11.txActive = false ∧
    ready11.cmdQueue = [] := by decide

/-- StepKeepsInvariant, StepAlwaysGoesOn, ConfigurationNeverChanges, StepFollowsStepRelation: an invariant state with
each kind of step, a response replaced by a reset among them. -/
theorem witness_steps : (Inv (presenting11 [0x20000000000000000#68] [acceptPins]) ∧
      ∃ t, step (presenting11 [0x20000000000000000#68] [acceptPins]) = .next t) ∧
    (Inv (sending11 6 [acceptPins]) ∧ ∃ t, step (sending11 6 [acceptPins]) = .next t) ∧
    (Inv (State.resetOf cfg11) ∧ ∃ t, step (State.resetOf cfg11) = .next t) ∧
    (Inv ready34 ∧ label ready34 = none ∧ ∃ t, step ready34 = .next t) ∧
    (Inv (cutting (sending11 6 [acceptPins])) ∧ ∃ t, step (cutting (sending11 6 [acceptPins])) = .next t) :=
  ⟨⟨witness_inv_presenting11, _, rfl⟩, ⟨witness_inv_sending.2, _, rfl⟩, ⟨witness_inv_uninitialized, _, rfl⟩,
    ⟨witness_inv_ready34, by decide, _, rfl⟩,
    ⟨by decide, by decide, fun _ => ⟨rfl, rfl, rfl, rfl⟩, by decide, by decide⟩, _, rfl⟩

/-- OnlyResetAndInitWriteEncState: a reset of a Ready block, INIT, and a step of a Ready block. -/
theorem witness_enc_state : (takesReset resetting11 = true ∧ ∃ t, step resetting11 = .next t ∧ t.encState ≠ resetting11.encState) ∧
    ((State.resetOf cfg11).rst = false ∧ (State.resetOf cfg11).encState = .uninitialized ∧
      ∃ t, step (State.resetOf cfg11) = .next t ∧ t.encState ≠ (State.resetOf cfg11).encState) ∧
    (takesReset ready11 = false ∧ ready11.encState = .ready ∧ ∃ t, step ready11 = .next t) :=
  ⟨⟨by decide, _, rfl, by decide⟩, ⟨by decide, by decide, _, rfl, by decide⟩, by decide, by decide, _, rfl⟩

/-- OnlyInitAndPixWriteFrame: a PIX that changes a byte. -/
theorem witness_frame_write : ∃ t, step (presenting11 [0x10000000000FF8040#68] []) = .next t ∧
    takesReset (presenting11 [0x10000000000FF8040#68] []) = false ∧
    t.frameByte 4 ≠ (presenting11 [0x10000000000FF8040#68] []).frameByte 4 :=
  ⟨_, rfl, by decide, by decide⟩

/-- OnlySendAndTxMoveTransmitter: a SEND, an accepted byte, and a reset. -/
theorem witness_transmitter :
    (∃ t, step (presenting11 [0x20000000000000000#68] []) = .next t ∧
      t.txActive ≠ (presenting11 [0x20000000000000000#68] []).txActive) ∧
    (∃ t, step (sending11 2 [acceptPins]) = .next t ∧ t.txIdx ≠ (sending11 2 [acceptPins]).txIdx) ∧
    (∃ t, step resetting11 = .next t ∧ t.txActive ≠ resetting11.txActive) :=
  ⟨⟨_, rfl, by decide⟩, ⟨_, rfl, by decide⟩, _, rfl, by decide⟩

/-- TransmissionLocksFrame. -/
theorem witness_lock : Inv (sending11 0 []) ∧ (sending11 0 []).txActive = true ∧
    takesReset (sending11 0 []) = false ∧ ∃ t, step (sending11 0 []) = .next t :=
  ⟨witness_inv_sending.1, by decide, by decide, _, rfl⟩

/-- SlotKeepsItsPixel: the slot of 1x1 holds `0x800000` through a GLUT. -/
theorem witness_slot : (∃ t, step (presenting11 [0x30000000000000080#68] []) = .next t) ∧
    takesReset (presenting11 [0x30000000000000080#68] []) = false ∧
    inDisplay (presenting11 [0x30000000000000080#68] []).cfg 0 0 = true ∧
    SlotHolds (presenting11 [0x30000000000000080#68] []) 0 0 (0x80, 0, 0) ∧
    (presenting11 [0x30000000000000080#68] []).action = .cmd 0x30000000000000080#68 ∧
    pixelOf 0 0 0x30000000000000080#68 = none :=
  ⟨⟨_, rfl⟩, by decide, by decide, ⟨by decide, by decide, by decide⟩, by decide, by decide⟩

/-- FrameHoldsLastPixels: three commands, two of them for one coordinate; and a coordinate never given. -/
theorem witness_last_pixels :
    NoReset (presenting11 [0x10000000000800000#68, 0x00000000000000000#68, 0x10000000000FF8040#68] []) ∧
    (presenting11 [0x10000000000800000#68, 0x00000000000000000#68, 0x10000000000FF8040#68] []).accepts = true ∧
    (∀ w ∈ [0x10000000000800000#68, 0x00000000000000000#68, 0x10000000000FF8040#68], decode w ≠ .send) ∧
    lastPixel 0 0 [0x10000000000800000#68, 0x00000000000000000#68, 0x10000000000FF8040#68] =
      some (0xFF, 0x80, 0x40) ∧
    lastPixel 0 0 [0x00000000000000000#68] = none ∧ inDisplay cfg11 0 0 = true :=
  ⟨noReset_nil rfl, by decide, by simp; decide, by decide, by decide, by decide⟩

/-- BlackAndWhiteFrames: a 1 by 1 display, white and black. -/
theorem witness_black_and_white : NoReset (presenting11 [0x10000000000FFFFFF#68] []) ∧
    (presenting11 [0x10000000000FFFFFF#68] []).accepts = true ∧ decode 0x10000000000FFFFFF#68 ≠ .send ∧
    (∀ x y : Coord, inDisplay cfg11 x y = true →
      lastPixel x y [0x10000000000FFFFFF#68] = some (255, 255, 255) ∧
      lastPixel x y [0x10000000000000000#68] = some (0, 0, 0)) := by
  refine ⟨noReset_nil rfl, by decide, by decide, fun x y h => ?_⟩
  have hx : x.toNat < 1 ∧ y.toNat < 1 := by simpa [inDisplay, cfg11] using h
  obtain rfl : x = 0 := by apply BitVec.eq_of_toNat_eq; simp only [BitVec.ofNat_eq_ofNat, BitVec.toNat_ofNat]; omega
  obtain rfl : y = 0 := by apply BitVec.eq_of_toNat_eq; simp only [BitVec.ofNat_eq_ofNat, BitVec.toNat_ofNat]; omega
  decide

/-- SuccessfulSendDeliversFrame: V-TX-2's sink. -/
def answersTx2 : List SinkPins :=
  [waitPins, acceptPins, waitPins, waitPins, acceptPins, acceptPins, acceptPins, waitPins, acceptPins, acceptPins,
    waitPins, acceptPins]

theorem witness_successful_send : NoReset (presenting11 [0x20000000000000000#68] answersTx2) ∧
    (presenting11 [0x20000000000000000#68] answersTx2).accepts = true ∧ decode 0x20000000000000000#68 = .send ∧
    (∀ p ∈ answersTx2, p.fail = false) ∧ acceptCount answersTx2 = cfg11.frameLen ∧
    ∃ p, answersTx2.getLast? = some p ∧ p.ready = true :=
  ⟨noReset_nil rfl, by decide, by decide, by decide, by decide, acceptPins, by decide, by decide⟩

/-- FailedSendDeliversPrefix: V-TX-3 (at byte 0), V-TX-5 (at the last byte), V-TX-6 (fail and ready together). -/
theorem witness_failed_send : NoReset (presenting11 [0x20000000000000000#68] [acceptPins, acceptPins, bothPins]) ∧
    (presenting11 [0x20000000000000000#68] [acceptPins, acceptPins, bothPins]).accepts = true ∧
    (∀ q ∈ List.replicate 6 acceptPins, q.fail = false) ∧ acceptCount [] < cfg11.frameLen ∧
    acceptCount (List.replicate 6 acceptPins) < cfg11.frameLen ∧ failPins.fail = true ∧ bothPins.fail = true :=
  ⟨noReset_nil rfl, by decide, by decide, by decide, by decide, by decide, by decide⟩

/-- SentFrameIsOpcMessage: V-TX-2's sink, and a slot that holds a pixel. -/
theorem witness_sent_frame : Inv (presenting11 [0x20000000000000000#68] answersTx2) ∧
    (presenting11 [0x20000000000000000#68] answersTx2).sinkPins = answersTx2 ++ [] ∧
    inDisplay cfg11 0 0 = true ∧ SlotHolds (presenting11 [0x20000000000000000#68] answersTx2) 0 0 (0x80, 0, 0) :=
  ⟨⟨by decide, by decide, fun _ => ⟨rfl, rfl, rfl, rfl⟩, by decide, by decide⟩, by decide, by decide,
    by decide, by decide, by decide⟩

/-- SendFrameDeliversImage: the two words of SEND_FRAME on a 1 by 1 display (P3), and V-TX-2's sink. -/
theorem witness_send_frame : Inv (presenting11 [0x10000000000800000#68, 0x20000000000000000#68] answersTx2) ∧
    NoReset (presenting11 [0x10000000000800000#68, 0x20000000000000000#68] answersTx2) ∧
    (presenting11 [0x10000000000800000#68, 0x20000000000000000#68] answersTx2).accepts = true ∧
    [0x10000000000800000#68, 0x20000000000000000#68] =
      (sendFrame cfg11 fun _ _ => 0x800000).map AsmLine.word ++ [] :=
  ⟨⟨by decide, by decide, fun _ => ⟨rfl, rfl, rfl, rfl⟩, by decide, by decide⟩, noReset_nil rfl, by decide, by decide⟩

/-- P3 step 2's frame and P1's as wire messages. -/
theorem test_wire_message : wireMessage cfg11 (fun _ _ => 0x800000) = [0x00, 0x00, 0x00, 0x03, 0x2E, 0x00, 0x00] ∧
    wireMessage cfg22 (fun x y => [0x000000, 0x800000, 0xFFFFFF, 0x4080C0].getD (2 * x + y) 0) =
      [0x00, 0x00, 0x00, 0x0C, 0x00, 0x00, 0x00, 0x2E, 0x00, 0x00, 0x08, 0x2E, 0x7D, 0xFF, 0xFF, 0xFF] := by decide

/-- SilentSinkHoldsTransmission: V-TX-7. -/
theorem witness_silent_sink : NoReset (sending11 0 []) ∧ (sending11 0 []).encState = .ready ∧
    (sending11 0 []).txActive = true ∧ (sending11 0 []).sinkPins = [] :=
  ⟨noReset_nil rfl, by decide, by decide, by decide⟩

end Sys2Proof.Tests
end

/-! PROOFS. Family 00_scope.md: the configuration check (R8), the derived parameters (R7), and that the configuration is
a constant of the hardware (R6, R10). -/
namespace Sys2Proof

/-- The whole check of R8: ConstructionError before EncodingError, and legality as the spec defines it. -/
theorem checkConfig_eq_none_iff {w h : Int} :
    checkConfig w h = none ↔ 0 < w ∧ 0 < h ∧ 3 * w * h ≤ 0xFFFF := by
  unfold checkConfig
  split
  · next hle => simp only [reduceCtorEq, false_iff]; omega
  · split
    · next hlong => simp only [reduceCtorEq, false_iff]; omega
    · next hfits => simp only [true_iff]; omega

theorem checkConfig_of_nonpos {w h : Int} (hle : w ≤ 0 ∨ h ≤ 0) :
    checkConfig w h = some .constructionError := if_pos hle

theorem checkConfig_of_too_long {w h : Int} (hw : 0 < w) (hh : 0 < h) (hlong : 3 * w * h > 0xFFFF) :
    checkConfig w h = some .encodingError := by
  rw [checkConfig, if_neg (by omega), if_pos hlong]

/-- The hardware is refused with the error the check names. -/
theorem Config.build_of_refused {w h : Int} {e : ConfigError} (hc : checkConfig w h = some e) :
    Config.build w h = .error e := by
  unfold Config.build
  split
  · next e' he => rw [he] at hc; cases hc; rfl
  · next hn => rw [hn] at hc; cases hc

/-- A pair that passes the check is built with that width and height. -/
theorem Config.build_of_legal {w h : Int} (hc : checkConfig w h = none) :
    ∃ c : Config, Config.build w h = .ok c ∧ (c.width : Int) = w ∧ (c.height : Int) = h := by
  obtain ⟨hw, hh, -⟩ := checkConfig_eq_none_iff.1 hc
  unfold Config.build
  split
  · next e he => rw [he] at hc; cases hc
  · exact ⟨_, rfl, Int.toNat_of_nonneg hw.le, Int.toNat_of_nonneg hh.le⟩

/-- R8 over the natural numbers, of every configuration there is. -/
theorem Config.legal_nat (c : Config) : 0 < c.width ∧ 0 < c.height ∧ 3 * c.width * c.height ≤ 0xFFFF := by
  obtain ⟨hw, hh, hlen⟩ := checkConfig_eq_none_iff.1 c.legal
  exact ⟨by exact_mod_cast hw, by exact_mod_cast hh, by exact_mod_cast hlen⟩

theorem Config.width_pos (c : Config) : 0 < c.width := c.legal_nat.1

theorem Config.height_pos (c : Config) : 0 < c.height := c.legal_nat.2.1

theorem Config.pixels_pos (c : Config) : 0 < c.pixels := Nat.mul_pos c.width_pos c.height_pos

/-- The payload length fits the 16-bit protocol field (00_scope.md R7, R8). -/
theorem Config.payloadLen_le (c : Config) : c.payloadLen ≤ 65535 := by
  obtain ⟨-, -, hlen⟩ := c.legal_nat
  rwa [Nat.mul_assoc] at hlen

theorem Config.pixels_le (c : Config) : c.pixels ≤ 21845 := by
  have hlen : 3 * c.pixels ≤ 65535 := c.payloadLen_le
  omega

theorem Config.width_le_pixels (c : Config) : c.width ≤ c.pixels := Nat.le_mul_of_pos_right _ c.height_pos

theorem Config.height_le_pixels (c : Config) : c.height ≤ c.pixels := Nat.le_mul_of_pos_left _ c.width_pos

/-- Settles O8: all ranges follow from `1 ≤ N` and `3 * N ≤ 0xFFFF`. -/
theorem derivedParametersAreBounded : Obligations.DerivedParametersAreBounded := by
  intro c
  have hpos := c.pixels_pos
  have hle := c.pixels_le
  have hwidth := c.width_le_pixels
  have hheight := c.height_le_pixels
  have hpayload : c.payloadLen = 3 * c.pixels := rfl
  have hframe : c.frameLen = 4 + c.payloadLen := rfl
  refine ⟨rfl, hpayload, hframe, ?_⟩
  omega

/-- Settles O7: the three answers of the check, and the proof of legality each configuration carries. -/
theorem onlyLegalConfigurationsAreBuilt : Obligations.OnlyLegalConfigurationsAreBuilt := by
  intro w h
  refine ⟨fun hle => ?_, fun hw hh hlong => ?_, fun hw hh hfits => ?_, Config.legal_nat⟩
  · exact Config.build_of_refused (checkConfig_of_nonpos hle)
  · exact Config.build_of_refused (checkConfig_of_too_long hw hh hlong)
  · exact Config.build_of_legal (checkConfig_eq_none_iff.2 ⟨hw, hh, hfits⟩)

end Sys2Proof

namespace Sys2Proof.Machine

theorem CommandEffect.cfg_eq {i : Instr} {s t : State} (h : CommandEffect i s t) : t.cfg = s.cfg := by
  cases h <;> rfl

theorem TxEffect.cfg_eq {s t : State} (h : TxEffect s t) : t.cfg = s.cfg := by
  cases h <;> rfl

theorem exec_cfg {i : Instr} {s t : State} (h : exec i s = .next t) : t.cfg = s.cfg := by
  rcases exec_cases h with ⟨-, rfl⟩ | ⟨-, heffect⟩
  · rfl
  · exact heffect.cfg_eq

theorem initStep_cfg {s t : State} (h : initStep s = .next t) : t.cfg = s.cfg := by
  rw [initStep_eq] at h
  cases h
  rfl

theorem operate_cfg {s t : State} (h : operate s = .next t) : t.cfg = s.cfg := by
  rcases operate_cases h with ⟨-, rfl⟩ | ⟨-, hinit⟩ | ⟨-, htx⟩ | ⟨w, -, hexec⟩ | ⟨-, rfl⟩
  · rfl
  · rw [initStep_cfg hinit, State.tick_cfg]
  · exact htx.cfg_eq
  · rw [exec_cfg hexec, State.takeCommand_cfg, State.tick_cfg]
  · rfl

/-- The edge of a response keeps the configuration, whether or not a reset replaces the response. -/
@[simp] theorem responseEdge_cfg (s t : State) : (responseEdge s t).cfg = t.cfg := by
  unfold responseEdge
  split
  · split <;> rfl
  · rfl

/-- The geometry and the mapping policy are fixed when the hardware is elaborated (00_scope.md R6, R10). -/
theorem step_cfg {s t : State} (h : step s = .next t) : t.cfg = s.cfg := by
  obtain ⟨u, hoperate, rfl⟩ := step_cases h
  rw [responseEdge_cfg, operate_cfg hoperate]

/-- Settles O42: neither the operation of a step nor the edge of its response writes the configuration. -/
theorem configurationNeverChanges : Obligations.ConfigurationNeverChanges := fun _ _ => step_cfg

end Sys2Proof.Machine

/-! PROOFS. Family 10_state.md: the invariant (R29), the writers of each component of the state (R24 to R26), the ports
(R30 to R34) and the state after reset (R36). -/
namespace Sys2Proof

/-- Every frame address fits `TX_IDX` (00_scope.md R7). -/
theorem Config.frameLen_le (c : Config) : c.frameLen ≤ 65539 := by
  have hlen := c.payloadLen_le
  simp only [Config.frameLen]
  omega

end Sys2Proof

namespace Sys2Proof.Machine

/-! Which action the state enables, read both ways (42_frame_encoder.md R161). -/

theorem State.action_eq_reset_iff (s : State) : s.action = .reset ↔ s.rst = true := by
  refine ⟨fun h => ?_, fun h => by simp [State.action, h]⟩
  rcases s.action_cases with ⟨-, hr⟩ | ⟨ha, -⟩ | ⟨ha, -⟩ | ⟨w, ws, ha, -⟩ | ⟨ha, -⟩
  · exact hr
  all_goals simp [ha] at h

theorem State.action_eq_init_iff (s : State) :
    s.action = .init ↔ s.rst = false ∧ s.encState = .uninitialized := by
  refine ⟨fun h => ?_, fun ⟨hr, he⟩ => by simp [State.action, hr, he]⟩
  rcases s.action_cases with ⟨ha, -⟩ | ⟨-, hs⟩ | ⟨ha, -⟩ | ⟨w, ws, ha, -⟩ | ⟨ha, -⟩
  case inr.inl => exact hs
  all_goals simp [ha] at h

theorem State.action_eq_tx_iff (s : State) :
    s.action = .tx ↔ s.rst = false ∧ s.encState = .ready ∧ s.txActive = true := by
  refine ⟨fun h => ?_, fun ⟨hr, he, ht⟩ => by simp [State.action, hr, he, ht]⟩
  rcases s.action_cases with ⟨ha, -⟩ | ⟨ha, -⟩ | ⟨-, hs⟩ | ⟨w, ws, ha, -⟩ | ⟨ha, -⟩
  case inr.inr.inl => exact hs
  all_goals simp [ha] at h

theorem State.action_eq_cmd_iff (s : State) (w : CmdWord) :
    s.action = .cmd w ↔ s.rst = false ∧ s.accepts = true ∧ ∃ ws, s.cmdQueue = w :: ws := by
  constructor
  · intro h
    rcases s.action_cases with ⟨ha, -⟩ | ⟨ha, -⟩ | ⟨ha, -⟩ | ⟨v, ws, ha, hr, hs, hq⟩ | ⟨ha, -⟩
    case inr.inr.inr.inl =>
      rw [ha] at h
      cases h
      exact ⟨hr, hs, ws, hq⟩
    all_goals simp [ha] at h
  · rintro ⟨hr, hs, ws, hq⟩
    obtain ⟨he, ht⟩ := s.accepts_iff.1 hs
    simp [State.action, hr, he, ht, hq]

/-! The range of `TX_IDX` (10_state.md R26). -/

/-- `TX_IDX` does not wrap while it stays in the frame buffer. -/
theorem txIdx_succ_toNat {c : Config} {k : FrameIdx} (h : k.toNat + 1 < c.frameLen) :
    (k + 1).toNat = k.toNat + 1 := by
  have hlen := c.frameLen_le
  rw [BitVec.toNat_add]
  exact Nat.mod_eq_of_lt (by change k.toNat + 1 < _; omega)

end Sys2Proof.Machine

namespace Sys2Proof.Safety

open Sys2Proof.Machine

/-! The invariant (10_state.md R29), update by update. -/

/-- The invariant looks at the frame, the configuration and `ENC_STATE`, and at the transmitter only while it sends. -/
theorem Inv.of_same_frame {s t : State} (hi : Inv s) (hcfg : t.cfg = s.cfg) (henc : t.encState = s.encState)
    (hframe : t.frame = s.frame) (hdraw : t.frameDraw = s.frameDraw)
    (hsending : t.txActive = true → s.encState = .ready ∧ t.txIdx.toNat < s.cfg.frameLen) : Inv t where
  sending_ready ht := henc ▸ (hsending ht).1
  sending_inside ht := hcfg ▸ (hsending ht).2
  header he := by
    have hheld := hi.header (henc ▸ he)
    simpa only [HeaderHeld, State.frameByte, hcfg, hframe, hdraw] using hheld
  bounded := hframe ▸ hcfg ▸ hi.bounded
  canonical := hframe ▸ hi.canonical

/-- The hypothesis of `Inv.of_same_frame` where the transmitter stands as it was. -/
theorem Inv.sending {s : State} (hi : Inv s) (ht : s.txActive = true) :
    s.encState = .ready ∧ s.txIdx.toNat < s.cfg.frameLen :=
  ⟨hi.sending_ready ht, hi.sending_inside ht⟩

theorem Inv.tick {s : State} (hi : Inv s) : Inv s.tick := hi.of_same_frame rfl rfl rfl rfl hi.sending

/-- A reset establishes the invariant in every state: no byte is held and nothing is in flight. -/
theorem inv_takeReset (s : State) : Inv (takeReset s) where
  sending_ready ht := by simp at ht
  sending_inside ht := by simp at ht
  header he := by simp at he
  bounded := by simp
  canonical := by simp

/-- A store inside the frame buffer holds no byte outside it. -/
theorem Inv.store_bounded {s : State} (hi : Inv s) {a : Nat} {bs : List Byte}
    (hle : a + bs.length ≤ s.cfg.frameLen) : ∀ p ∈ (s.store a bs).frame, p.1 < s.cfg.frameLen := by
  intro p hp
  rcases Memory.mem_writeAll hp with ⟨-, hlt⟩ | hold
  · omega
  · exact hi.bounded p hold

/-- A store in the payload keeps the invariant: it does not touch the header (42_frame_encoder.md R140). -/
theorem Inv.store_payload {s : State} (hi : Inv s) {a : Nat} {bs : List Byte} (hpayload : 4 ≤ a)
    (hle : a + bs.length ≤ s.cfg.frameLen) : Inv (s.store a bs) where
  sending_ready := hi.sending_ready
  sending_inside := hi.sending_inside
  header he := by
    have hkept : ∀ k < 4, (s.store a bs).frameByte k = s.frameByte k := fun k hk => by
      rw [State.store_frameByte, if_neg (by omega)]
    have hheld : HeaderHeld s := hi.header he
    simpa [HeaderHeld, hkept] using hheld
  bounded := hi.store_bounded hle
  canonical := Memory.wf_writeAll bs hi.canonical a

/-- The two payload length bytes of the header are the quotient and the remainder (20_memory.md R51). -/
theorem headerBytes_eq_headerOf (c : Config) : headerBytes c = headerOf c := by
  have hlen := c.payloadLen_le
  have hhigh : (BitVec.ofNat 16 c.payloadLen).extractLsb' 8 8 = BitVec.ofNat 8 (c.payloadLen / 256) := by
    apply BitVec.eq_of_toNat_eq
    simp only [BitVec.extract_toNat, BitVec.toNat_ofNat]
    omega
  have hlow : (BitVec.ofNat 16 c.payloadLen).extractLsb' 0 8 = BitVec.ofNat 8 (c.payloadLen % 256) := by
    apply BitVec.eq_of_toNat_eq
    simp only [BitVec.extract_toNat, BitVec.toNat_ofNat]
    omega
  simp [headerBytes, headerOf, hhigh, hlow]

/-- INIT writes the header that a Ready block holds (42_frame_encoder.md R135). -/
theorem headerHeld_store (s : State) : HeaderHeld (s.store 0 (headerBytes s.cfg)) := by
  have hlen := s.cfg.payloadLen_le
  have hhigh : s.cfg.payloadLen / 256 < 256 := by omega
  rw [headerBytes_eq_headerOf]
  refine ⟨?_, ?_, ?_, ?_⟩ <;> simp [State.store_frameByte, headerOf, Nat.mod_eq_of_lt hhigh]

theorem Inv.init {s t : State} (hi : Inv s) (h : initStep s = .next t) : Inv t := by
  rw [initStep_eq] at h
  cases h
  have hle : 0 + (headerBytes s.cfg).length ≤ s.cfg.frameLen := by simp [headerBytes, Config.frameLen]
  exact {
    sending_ready := fun _ => rfl
    sending_inside := hi.sending_inside
    header := fun _ => headerHeld_store s
    bounded := hi.store_bounded hle
    canonical := Memory.wf_writeAll _ hi.canonical 0 }

theorem Inv.command {i : Instr} {s t : State} (hi : Inv s) (h : exec i s = .next t) : Inv t := by
  rcases exec_cases h with ⟨-, rfl⟩ | ⟨hs, heffect⟩
  · exact hi
  · cases heffect with
    | answered c d => exact hi.of_same_frame rfl rfl rfl rfl hi.sending
    | stored x y r g b hpix hin hle =>
      have hstore := hi.store_payload (bs := [gamma r, gamma g, gamma b]) (Nat.le_add_right 4 _) hle
      exact hstore.of_same_frame rfl rfl rfl rfl hstore.sending
    | started =>
      refine hi.of_same_frame rfl rfl rfl rfl fun _ => ⟨(s.accepts_iff.1 hs).1, ?_⟩
      simp [Config.frameLen]

theorem Inv.tx {s t : State} (hi : Inv s) (hready : s.encState = .ready) (h : TxEffect s t) : Inv t := by
  cases h with
  | silent => exact hi
  | waited => exact hi.of_same_frame rfl rfl rfl rfl hi.sending
  | failed => exact hi.of_same_frame rfl rfl rfl rfl (by simp)
  | acceptedLast => exact hi.of_same_frame rfl rfl rfl rfl (by simp)
  | acceptedMore p ps hp hans hmore =>
    exact hi.of_same_frame rfl rfl rfl rfl fun _ => ⟨hready, (txIdx_succ_toNat hmore).trans_lt hmore⟩

theorem Inv.operate {s t : State} (hi : Inv s) (h : operate s = .next t) : Inv t := by
  rcases operate_cases h with ⟨-, rfl⟩ | ⟨-, hinit⟩ | ⟨ha, htx⟩ | ⟨w, -, hexec⟩ | ⟨-, rfl⟩
  · exact inv_takeReset _
  · exact hi.tick.init hinit
  · obtain ⟨-, hready, -⟩ := s.action_eq_tx_iff.1 ha
    exact hi.tick.tx hready htx
  · have htaken : Inv s.tick.takeCommand := hi.of_same_frame rfl rfl rfl rfl hi.sending
    exact htaken.command hexec
  · exact hi.tick

/-- Settles O39: the operation keeps the invariant, and so does the edge of its response, reset or not. -/
theorem stepKeepsInvariant : Obligations.StepKeepsInvariant := by
  intro s t hi h
  obtain ⟨u, evs, hu, -, -, -, ⟨-, rfl⟩ | ⟨-, -, rfl⟩ | ⟨-, -, rfl⟩⟩ := step_edge_cases h
  · exact hi.operate hu
  · exact (hi.operate hu).tick
  · exact inv_takeReset _

/-- Settles O40: in the state after reset nothing is in flight, no byte is held, and no header is due. -/
theorem resetMeetsInvariant : Obligations.ResetMeetsInvariant := by
  have hreset : ∀ c : Config, Inv (State.resetOf c) := fun c => {
    sending_ready := fun ht => by simp [State.resetOf] at ht
    sending_inside := fun ht => by simp [State.resetOf] at ht
    header := fun he => by simp [State.resetOf] at he
    bounded := by simp [State.resetOf]
    canonical := by simp [State.resetOf] }
  exact ⟨hreset _, hreset⟩

end Sys2Proof.Safety

namespace Sys2Proof.Machine

/-! What each operation leaves unchanged, by its effects (Laws/Exec). -/

theorem CommandEffect.encState_eq {i : Instr} {s t : State} (h : CommandEffect i s t) : t.encState = s.encState := by
  cases h <;> rfl

theorem TxEffect.encState_eq {s t : State} (h : TxEffect s t) : t.encState = s.encState := by
  cases h <;> rfl

/-- The transmission reads `FRAME` and does not write it (42_frame_encoder.md R150). -/
theorem TxEffect.frame_eq {s t : State} (h : TxEffect s t) : t.frame = s.frame := by
  cases h <;> rfl

theorem TxEffect.frameByte_eq {s t : State} (h : TxEffect s t) (a : Nat) : t.frameByte a = s.frameByte a := by
  cases h <;> rfl

/-- A command that changes a byte of `FRAME` is a PIX in the display, and the byte lies in its slot
(10_state.md R25, 42_frame_encoder.md R140). -/
theorem CommandEffect.slot_of_frameByte_ne {i : Instr} {s t : State} {a : Nat} (h : CommandEffect i s t)
    (hne : t.frameByte a ≠ s.frameByte a) :
    ∃ x y r g b, i = .pix x y r g b ∧ inDisplay s.cfg x y = true ∧
      pixAddress s.cfg x y ≤ a ∧ a < pixAddress s.cfg x y + 3 := by
  cases h with
  | answered => exact absurd rfl hne
  | stored x y r g b hpix hin =>
    refine ⟨x, y, r, g, b, hpix, hin, ?_⟩
    by_contra hout
    exact hne (by rw [State.respond_frameByte, State.store_frameByte]; exact if_neg hout)
  | started => exact absurd rfl hne

/-- A command that moves the transmitter is SEND (10_state.md R26). -/
theorem CommandEffect.send_of_transmitter_ne {i : Instr} {s t : State} (h : CommandEffect i s t)
    (hne : t.txActive ≠ s.txActive ∨ t.txIdx ≠ s.txIdx) : i = .send ∧ t.txActive = true ∧ t.txIdx = 0 := by
  cases h with
  | answered => simp at hne
  | stored => simp at hne
  | started hsend => exact ⟨hsend, rfl, rfl⟩

/-- The one effect of a command that answers, when it is accepted. -/
theorem exec_effect {i : Instr} {s t : State} (hs : s.accepts = true) (h : exec i s = .next t) :
    CommandEffect i s t := by
  rcases exec_cases h with ⟨hn, -⟩ | ⟨-, heffect⟩
  · simp [hs] at hn
  · exact heffect

/-- A presented command is accepted by the block that takes it (10_state.md R31). -/
theorem State.takeCommand_accepts_of_action {s : State} {w : CmdWord} (h : s.action = .cmd w) :
    s.tick.takeCommand.accepts = true := by
  obtain ⟨-, hs, -⟩ := (s.action_eq_cmd_iff w).1 h
  exact hs

end Sys2Proof.Machine

namespace Sys2Proof.Safety

open Sys2Proof.Machine

/-! When a response is due, and when a reset comes (10_state.md R32, 70_reset_and_hazards.md R197). -/

/-- The sink ends the transmission: it fails, or it accepts the last byte (42_frame_encoder.md R150). -/
theorem responseDue_tx_iff {s : State} (ha : s.action = .tx) :
    responseDue s = true ↔ ∃ p ps, s.sinkPins = p :: ps ∧
      (p.fail = true ∨ (p.ready = true ∧ s.txIdx.toNat + 1 = s.cfg.frameLen)) := by
  cases hp : s.sinkPins with
  | nil => simp [responseDue, ha, sinkAnswer, hp]
  | cons p ps =>
    rcases p.answer_cases with ⟨hf, hans⟩ | ⟨hf, hr, hans⟩ | ⟨hf, hr, hans⟩
    · simp [responseDue, ha, sinkAnswer, hp, hans, hf]
    · simp [responseDue, ha, sinkAnswer, hp, hans, hf, hr, State.atLastByte]
    · simp [responseDue, ha, sinkAnswer, hp, hans, hf, hr]

theorem responseDue_cmd_iff {s : State} {w : CmdWord} (ha : s.action = .cmd w) :
    responseDue s = true ↔ decode w ≠ .send := by
  simp [responseDue, ha]

/-- The operations that answer: every command but SEND, and the end of a transmission. -/
theorem responseDue_iff (s : State) :
    responseDue s = true ↔
      (∃ w, s.action = .cmd w ∧ decode w ≠ .send) ∨
      (s.action = .tx ∧ ∃ p ps, s.sinkPins = p :: ps ∧
        (p.fail = true ∨ (p.ready = true ∧ s.txIdx.toNat + 1 = s.cfg.frameLen))) := by
  cases ha : s.action with
  | tx => simp [responseDue_tx_iff ha]
  | cmd w => simp [responseDue_cmd_iff ha]
  | reset | init | idle => simp [responseDue, ha]

/-- Nothing is due at the edge of a reset: it takes the place of the operation. -/
theorem responseDue_eq_false_of_rst {s : State} (hr : s.rst = true) : responseDue s = false := by
  simp [responseDue, s.action_eq_reset_iff.2 hr]

/-- Where a response is due, a reset can come only at its own edge, since the operation's edge had none. -/
theorem responseDue_and_noReset_iff (s : State) :
    (responseDue s = true ∧ takesReset s = false) ↔ (responseDue s = true ∧ s.rstAtResponse = false) := by
  cases hr : s.rst with
  | true => simp [responseDue_eq_false_of_rst hr]
  | false =>
    refine and_congr_right fun hd => ?_
    simp [takesReset, hr, hd]

/-- A step that takes in a reset ends in a reset state, at its own edge or at the edge of the response. -/
theorem step_of_takesReset {s t : State} (h : step s = .next t) (hr : takesReset s = true) :
    ∃ u, t = takeReset u := by
  obtain ⟨u, evs, hu, -, -, -, ⟨hd, rfl⟩ | ⟨hd, hn, -⟩ | ⟨-, -, rfl⟩⟩ := step_edge_cases h
  · have hrst : s.rst = true := by simpa [takesReset, hd] using hr
    rw [operate, s.action_eq_reset_iff.2 hrst] at hu
    cases hu
    exact ⟨_, rfl⟩
  · have hrst : s.rst = true := by simpa [takesReset, hn] using hr
    simp [responseDue_eq_false_of_rst hrst] at hd
  · exact ⟨_, rfl⟩

/-! What a step puts out. -/

/-- No operation puts out two responses. -/
theorem operate_responses_le {s u : State} (h : operate s = .next u) :
    (newOuts s u).countP Output.isResponse ≤ 1 := by
  rcases operate_cases h with ⟨-, rfl⟩ | ⟨-, hinit⟩ | ⟨-, htx⟩ | ⟨w, ha, hexec⟩ | ⟨-, rfl⟩
  · simp [newOuts]
  · rw [initStep_eq] at hinit
    cases hinit
    simp [newOuts]
  · cases htx <;> simp [newOuts, Output.isResponse]
  · cases exec_effect (State.takeCommand_accepts_of_action ha) hexec <;> simp [newOuts, Output.isResponse]
  · simp [newOuts]

theorem newOuts_of_outs {s t : State} {evs : List Output} (h : t.outs = s.outs ++ evs) : newOuts s t = evs := by
  rw [newOuts, h, List.drop_left]

/-- What a step puts out: at most one response, and one exactly when it is due and no reset comes. -/
theorem step_outs {s t : State} (h : step s = .next t) :
    ∃ evs, t.outs = s.outs ++ evs ∧ evs.countP Output.isResponse ≤ 1 ∧
      (evs.any Output.isResponse = true ↔ responseDue s = true ∧ takesReset s = false) := by
  obtain ⟨u, evs, hu, ho, hdue, -, hcases⟩ := step_edge_cases h
  have hle : evs.countP Output.isResponse ≤ 1 := newOuts_of_outs ho ▸ operate_responses_le hu
  rw [responseDue_and_noReset_iff]
  rcases hcases with ⟨hd, rfl⟩ | ⟨hd, hn, rfl⟩ | ⟨hd, hr, rfl⟩
  · exact ⟨evs, ho, hle, by simp [hdue, hd]⟩
  · exact ⟨evs, ho, hle, by simp [hdue, hd, hn]⟩
  · exact ⟨_, withdrawn_outs ho, by simp [List.countP_filter], by simp [hr]⟩

/-- Settles O34: a response stands among the events of a step exactly when it is due and no reset comes. -/
theorem responseComesExactlyWhenDue : Obligations.ResponseComesExactlyWhenDue := by
  intro s t h
  obtain ⟨evs, ho, hle, hany⟩ := step_outs h
  rw [rspPins_ne_none, newOuts_of_outs ho]
  exact ⟨hany, hle, ho, responseDue_iff s⟩

/-! Who writes which component of the state (10_state.md R24 to R26). -/

/-- A Ready block stays Ready but for a reset (10_state.md R24). -/
theorem step_keeps_ready {s t : State} (h : step s = .next t) (hr : takesReset s = false) (he : s.encState = .ready) :
    t.encState = .ready := by
  obtain ⟨hrst, u, hu, ht⟩ := step_of_noReset h hr
  have hkeep : u.encState = .ready := by
    rcases operate_cases hu with ⟨ha, -⟩ | ⟨-, hinit⟩ | ⟨-, htx⟩ | ⟨w, ha, hexec⟩ | ⟨-, rfl⟩
    · simp [s.action_eq_reset_iff.1 ha] at hrst
    · rw [initStep_eq] at hinit
      cases hinit
      rfl
    · exact htx.encState_eq.trans he
    · exact (exec_effect (State.takeCommand_accepts_of_action ha) hexec).encState_eq.trans he
    · exact he
  rcases ht with rfl | rfl <;> exact hkeep

/-- INIT is a step of its own, which answers nothing (42_frame_encoder.md R135). -/
theorem step_of_init {s : State} (ha : s.action = .init) :
    step s = .next (s.tick.store 0 (headerBytes s.cfg)).becomeReady := by
  refine step_of_quiet ?_ (by simp [responseDue, ha])
  rw [operate, ha]
  exact initStep_eq s.tick

/-- Settles O43: a reset leaves Uninitialized, INIT leaves Ready, and every other step keeps `ENC_STATE`. -/
theorem onlyResetAndInitWriteEncState : Obligations.OnlyResetAndInitWriteEncState := by
  refine ⟨fun c => rfl, fun s t h => ⟨fun hr => ?_, fun hrst he => ?_, step_keeps_ready h, fun hne => ?_⟩⟩
  · obtain ⟨u, rfl⟩ := step_of_takesReset h hr
    rfl
  · have ha := s.action_eq_init_iff.2 ⟨hrst, he⟩
    rw [step_of_init ha] at h
    cases h
    exact ⟨ha, rfl⟩
  · by_contra hno
    obtain ⟨hr, ha⟩ := not_or.1 hno
    rw [Bool.not_eq_true] at hr
    cases he : s.encState with
    | ready => exact hne ((step_keeps_ready h hr he).trans he.symm)
    | uninitialized =>
      obtain ⟨hrst, -⟩ := step_of_noReset h hr
      exact ha (s.action_eq_init_iff.2 ⟨hrst, he⟩)

/-- An operation other than reset that changes a byte of `FRAME` is INIT or a PIX (10_state.md R25). -/
theorem operate_frame_writer {s u : State} {a : Nat} (h : operate s = .next u) (hrst : s.rst = false)
    (hne : u.frameByte a ≠ s.frameByte a) :
    (s.action = .init ∧ a < 4) ∨
    (∃ w x y r g b, s.action = .cmd w ∧ decode w = .pix x y r g b ∧ inDisplay s.cfg x y = true ∧
      pixAddress s.cfg x y ≤ a ∧ a < pixAddress s.cfg x y + 3) := by
  rcases operate_cases h with ⟨ha, -⟩ | ⟨ha, hinit⟩ | ⟨-, htx⟩ | ⟨w, ha, hexec⟩ | ⟨-, rfl⟩
  · simp [s.action_eq_reset_iff.1 ha] at hrst
  · refine .inl ⟨ha, ?_⟩
    rw [initStep_eq] at hinit
    cases hinit
    by_contra hout
    exact hne ((State.store_frameByte ..).trans (if_neg (by simpa [headerBytes] using hout)))
  · exact absurd (htx.frameByte_eq a) hne
  · have heffect := exec_effect (State.takeCommand_accepts_of_action ha) hexec
    obtain ⟨x, y, r, g, b, hslot⟩ := heffect.slot_of_frameByte_ne hne
    exact .inr ⟨w, x, y, r, g, b, ha, hslot⟩
  · exact absurd rfl hne

/-- Settles O44: a step without reset is its operation, as far as `FRAME` goes. -/
theorem onlyInitAndPixWriteFrame : Obligations.OnlyInitAndPixWriteFrame := by
  intro s t a h hr hne
  obtain ⟨hrst, u, hu, ht⟩ := step_of_noReset h hr
  have hwriter := operate_frame_writer (a := a) hu hrst
  rcases ht with rfl | rfl <;> exact hwriter hne

/-- An operation other than reset that moves the transmitter is a TX step or a SEND (10_state.md R26). -/
theorem operate_transmitter_mover {s u : State} (h : operate s = .next u) (hrst : s.rst = false)
    (hne : u.txActive ≠ s.txActive ∨ u.txIdx ≠ s.txIdx) :
    s.action = .tx ∨ ∃ w, s.action = .cmd w ∧ decode w = .send ∧ u.txActive = true ∧ u.txIdx = 0 := by
  rcases operate_cases h with ⟨ha, -⟩ | ⟨-, hinit⟩ | ⟨ha, -⟩ | ⟨w, ha, hexec⟩ | ⟨-, rfl⟩
  · simp [s.action_eq_reset_iff.1 ha] at hrst
  · rw [initStep_eq] at hinit
    cases hinit
    simp at hne
  · exact .inl ha
  · have heffect := exec_effect (State.takeCommand_accepts_of_action ha) hexec
    exact .inr ⟨w, ha, heffect.send_of_transmitter_ne hne⟩
  · simp at hne

/-- Settles O45: but for a reset, the transmitter moves with the operation of the step alone. -/
theorem onlySendAndTxMoveTransmitter : Obligations.OnlySendAndTxMoveTransmitter := by
  intro s t h hne
  cases hr : takesReset s with
  | true => exact .inl rfl
  | false =>
    obtain ⟨hrst, u, hu, ht⟩ := step_of_noReset h hr
    have hmover := operate_transmitter_mover hu hrst
    rcases ht with rfl | rfl <;> exact .inr (hmover hne)

end Sys2Proof.Safety

namespace Sys2Proof.Machine

/-! Every command answers (42_frame_encoder.md R161). -/

/-- Every command tests once whether it is accepted (10_state.md R31). -/
theorem exec_eq_ifAccepted (i : Instr) (s : State) : ∃ effect, exec i s = s.ifAccepted effect := by
  cases i <;> exact ⟨_, rfl⟩

theorem exec_of_not_accepts {s : State} (hs : s.accepts = false) (i : Instr) : exec i s = .next s := by
  obtain ⟨effect, heffect⟩ := exec_eq_ifAccepted i s
  rw [heffect, State.ifAccepted_of_not hs]

theorem alongColumn_lt {h x y : Nat} (hy : y < h) : alongColumn h x y < h := by
  unfold alongColumn
  split <;> omega

/-- The slot of a coordinate in the display lies in the frame buffer (41_serpentine_mapper.md R123). -/
theorem pixAddress_add_le {c : Config} {x y : Coord} (hin : inDisplay c x y = true) :
    pixAddress c x y + 3 ≤ c.frameLen := by
  simp only [inDisplay, Bool.and_eq_true, decide_eq_true_eq] at hin
  obtain ⟨hx, hy⟩ := hin
  have halong := alongColumn_lt (x := x.toNat) hy
  have hcolumns : (x.toNat + 1) * c.height ≤ c.width * c.height := Nat.mul_le_mul_right _ hx
  rw [Nat.add_one_mul] at hcolumns
  simp only [pixAddress, payloadOffset, soff, Config.frameLen, Config.payloadLen, Config.pixels]
  omega

/-- Every command answers in every state, since the only store it makes lies in the frame buffer. -/
theorem exec_answers (i : Instr) (s : State) : ∃ t, exec i s = .next t := by
  cases hs : s.accepts with
  | false => exact ⟨s, exec_of_not_accepts hs i⟩
  | true =>
    cases i with
    | pix x y r g b =>
      rw [exec, execPix, State.ifAccepted_of_accepts hs]
      split
      · next hin =>
        rw [memWrite_of_le (by exact pixAddress_add_le hin)]
        exact ⟨_, rfl⟩
      · exact ⟨_, rfl⟩
    | soff x y =>
      rw [exec, execSoff, State.ifAccepted_of_accepts hs]
      split <;> exact ⟨_, rfl⟩
    | nop | send | glut k | rsvd5 | rsvd6 | rsvd7 | rsvd8 | rsvd9 | rsvdA | rsvdB | rsvdC | rsvdD | rsvdE | rsvdF =>
      exact ⟨_, State.ifAccepted_of_accepts hs _⟩

theorem exec_send {s : State} (hs : s.accepts = true) : exec .send s = .next s.startTransmission :=
  State.ifAccepted_of_accepts hs _

/-- No command draws new free bytes for `FRAME` (U1). -/
theorem CommandEffect.frameDraw_eq {i : Instr} {s t : State} (h : CommandEffect i s t) : t.frameDraw = s.frameDraw := by
  cases h <;> rfl

/-- R82, for opcode 2. -/
theorem decode_send {w : CmdWord} (hop : w.extractLsb' 64 4 = 0x2) : decode w = .send := by
  rw [decode, CmdWord.op, hop]
  rfl

end Sys2Proof.Machine

namespace Sys2Proof.Safety

open Sys2Proof.Machine

/-- A TX step without reset has one of the effects of R150, but for the level of `rst` at the edge of a response. -/
theorem step_tx_cases {s t : State} (h : step s = .next t) (ha : s.action = .tx) (hr : takesReset s = false) :
    ∃ u, TxEffect s.tick u ∧ (t = u ∨ t = u.tick) := by
  obtain ⟨-, u, hu, ht⟩ := step_of_noReset h hr
  rw [operate, ha] at hu
  exact ⟨u, txStep_cases hu, ht⟩

/-- Settles O23: SEND has the one effect of R145, and no effect of a TX step writes `FRAME`. -/
theorem sendStartsTransmission : Obligations.SendStartsTransmission := by
  refine ⟨fun w => decode_send, by decide, fun s he ht => ⟨exec_send (s.accepts_iff.2 ⟨he, ht⟩), ?_⟩⟩
  intro u v ha hr h
  obtain ⟨u', heffect, rfl | rfl⟩ := step_tx_cases h ha hr
  all_goals exact ⟨heffect.frame_eq, heffect.frameByte_eq⟩

/-- Settles O25: a command that is not accepted waits, and the pins show the state. -/
theorem commandWaitsWhilePortNotReady : Obligations.CommandWaitsWhilePortNotReady := by
  refine ⟨fun i s hbusy => ?_, fun s => ⟨?_, ?_, ?_, rfl⟩⟩
  · have hs : s.accepts = false := by rcases hbusy with he | ht <;> simp [State.accepts, *]
    exact ⟨exec_of_not_accepts hs i, by simp [State.cmdReady, hs]⟩
  · simp [State.cmdReady, State.accepts_iff]
  · simp [State.txValid]
  · simp [State.encReady]

/-- The state a presented command runs in: its word has left the port and one level of `rst` has passed. -/
theorem tick_takeCommand_eq {s : State} {w : CmdWord} {ws : List CmdWord} (hq : s.cmdQueue = w :: ws) :
    s.tick.takeCommand = { s with rstPins := s.rstPins.tail, cmdQueue := ws } := by
  simp only [State.takeCommand, State.tick, hq, List.tail_cons]

theorem operate_cmd {s : State} {w : CmdWord} (ha : s.action = .cmd w) :
    operate s = exec (decode w) s.tick.takeCommand := by
  rw [operate, ha]

/-- Settles O30: the operation is `exec` of the decoded word, and a command other than SEND has a response's edge. -/
theorem stepRunsPresentedCommand : Obligations.StepRunsPresentedCommand := by
  rintro s w ws i hrst he ht hq rfl -
  have ha : s.action = .cmd w := (s.action_eq_cmd_iff w).2 ⟨hrst, s.accepts_iff.2 ⟨he, ht⟩, ws, hq⟩
  obtain ⟨t, hexec⟩ := exec_answers (decode w) s.tick.takeCommand
  have hoperate : operate s = .next t := (operate_cmd ha).trans hexec
  have hs := State.takeCommand_accepts_of_action ha
  have hpins : t.rstPins = s.rstPins.tail := command_rstPins hexec
  rw [← tick_takeCommand_eq hq]
  refine ⟨t, hexec, fun hsend => ?_, fun hne hr => ?_, fun hne hr => ?_⟩
  · exact step_of_quiet hoperate (by simp [responseDue, ha, hsend])
  · rw [step_of_answered hoperate ((responseDue_cmd_iff ha).2 hne) hr, State.tick, hpins]
  · refine ⟨_, step_of_cut hoperate ((responseDue_cmd_iff ha).2 hne) hr, ?_⟩
    obtain ⟨hsend, -⟩ | ⟨-, c, d, houts⟩ := command_outs hs hexec
    · exact absurd hsend hne
    · have hdraw : t.frameDraw = s.frameDraw := (exec_effect hs hexec).frameDraw_eq
      simp [takeReset, State.withdrawResponses, State.tick, hdraw, hpins, houts, Output.isResponse]

/-- In a transmission without reset at its edge the step's operation is the TX step. -/
theorem operate_tx {s t : State} (ha : s.action = .tx) (h : TxEffect s.tick t) : operate s = .next t := by
  rw [operate, ha]
  exact txStep_of_effect h

/-- `TX_IDX` stands at `FLEN - 1` exactly at the last byte (10_state.md R33). -/
theorem txIdx_eq_last_iff (s : State) : s.txIdx.toNat = s.cfg.frameLen - 1 ↔ s.txIdx.toNat + 1 = s.cfg.frameLen := by
  have hpos : 4 ≤ s.cfg.frameLen := Nat.le_add_right 4 _
  omega

theorem txOffer_of_valid {s : State} (hv : s.txValid = true) :
    s.txOffer = some (s.frameByte s.txIdx.toNat, decide (s.txIdx.toNat = s.cfg.frameLen - 1)) := by
  simp only [State.txOffer, hv, State.atLastByte, txIdx_eq_last_iff, if_true]

/-- Settles O33: the sink's answer picks the effect of the TX step, and a response's edge follows the two ends. -/
theorem txStepFollowsSinkAnswer : Obligations.TxStepFollowsSinkAnswer := by
  intro s hrst he ht hlt
  refine ⟨txOffer_of_valid (by simp [State.txValid, hrst, ht]), fun p ps hp => ?_⟩
  have ha : s.action = .tx := s.action_eq_tx_iff.2 ⟨hrst, he, ht⟩
  have hdue : responseDue s = true ↔ p.fail = true ∨ (p.ready = true ∧ s.txIdx.toNat + 1 = s.cfg.frameLen) := by
    simp [responseDue_tx_iff ha, hp]
  obtain rfl : ps = s.sinkPins.tail := by rw [hp, List.tail_cons]
  rw [txIdx_eq_last_iff]
  refine ⟨fun hf hr => ?_, fun hf hready hlast hr => ?_, fun hf hready hmore => ?_, fun hf hready => ?_⟩
  · have hoperate := operate_tx ha (.failed p _ hp (by simp [SinkPins.answer, hf]))
    exact ⟨_, step_of_answered hoperate (hdue.2 (.inl hf)) hr, rfl⟩
  · have hoperate := operate_tx ha (.acceptedLast p _ hp (by simp [SinkPins.answer, hf, hready]) hlast)
    refine ⟨_, step_of_answered hoperate (hdue.2 (.inr ⟨hready, hlast⟩)) hr, ?_⟩
    simp [State.respond, State.endTransmission, State.emit, State.takeAnswer, State.tick, State.frameByte]
  · rw [ne_eq, txIdx_eq_last_iff] at hmore
    have hnext : s.txIdx.toNat + 1 < s.cfg.frameLen := by omega
    have hoperate := operate_tx ha (.acceptedMore p _ hp (by simp [SinkPins.answer, hf, hready]) hnext)
    have hquiet : responseDue s = false := by simp [← Bool.not_eq_true, hdue, hf, hmore]
    exact ⟨txIdx_succ_toNat hnext, step_of_quiet hoperate hquiet⟩
  · have hoperate := operate_tx ha (.waited p _ hp (by simp [SinkPins.answer, hf, hready]))
    have hquiet : responseDue s = false := by simp [← Bool.not_eq_true, hdue, hf, hready]
    exact step_of_quiet hoperate hquiet

/-- Settles O37: the values of R36, and INIT as the first step (R198). -/
theorem resetStateHoldsResetValues : Obligations.ResetStateHoldsResetValues := by
  intro c
  have hinit : (State.resetOf c).action = .init := rfl
  exact ⟨rfl, rfl, rfl, fun a => rfl, rfl, rfl, rfl, rfl, rfl, _, step_of_init hinit, rfl, rfl⟩

end Sys2Proof.Safety

/-! PROOFS. Family 20_memory.md: a store repeated (R55), the frame locked while it is sent (R61), and slots that keep
their pixel (R64). -/
namespace Sys2Proof.Machine

/-- Storing the same bytes at the same addresses again changes nothing, not even the list as data. -/
theorem Memory.writeAll_writeAll_self {m : Memory} (hm : Memory.wf m) (a : Nat) (bs : List Byte) :
    Memory.writeAll (Memory.writeAll m a bs) a bs = Memory.writeAll m a bs := by
  have honce := Memory.wf_writeAll bs hm a
  refine Memory.ext_of_read (Memory.wf_writeAll bs honce a) honce fun b => ?_
  rw [Memory.read_writeAll, Memory.read_writeAll]
  split <;> rfl

/-- An accepted PIX in the display stores its corrected channels and answers OK (42_frame_encoder.md R140). -/
theorem exec_pix_of_inDisplay {x y : Coord} {s : State} (hs : s.accepts = true) (hin : inDisplay s.cfg x y = true)
    (r g b : Byte) :
    exec (.pix x y r g b) s =
      .next ((s.store (pixAddress s.cfg x y) [gamma r, gamma g, gamma b]).respond .ok 0) := by
  rw [exec, execPix, State.ifAccepted_of_accepts hs, if_pos hin, memWrite_of_le (by exact pixAddress_add_le hin)]

/-- An accepted PIX outside the display stores nothing and answers CoordError (42_frame_encoder.md R140). -/
theorem exec_pix_of_not_inDisplay {x y : Coord} {s : State} (hs : s.accepts = true)
    (hout : inDisplay s.cfg x y = false) (r g b : Byte) :
    exec (.pix x y r g b) s = .next (s.raise .coordError) := by
  rw [exec, execPix, State.ifAccepted_of_accepts hs, hout, if_neg Bool.false_ne_true]

/-- A transmission takes no word from the command port (10_state.md R31). -/
theorem TxEffect.cmdQueue_eq {s t : State} (h : TxEffect s t) : t.cmdQueue = s.cmdQueue := by
  cases h <;> rfl

/-! Slots of different coordinates are disjoint (41_serpentine_mapper.md R124). -/

/-- The comparison of 30_encoding.md R79, as natural numbers. -/
theorem inDisplay_iff {c : Config} {x y : Coord} :
    inDisplay c x y = true ↔ x.toNat < c.width ∧ y.toNat < c.height := by
  simp [inDisplay]

/-- The place along a column is its own inverse (41_serpentine_mapper.md R124). -/
theorem alongColumn_alongColumn {h x y : Nat} (hy : y < h) : alongColumn h x (alongColumn h x y) = y := by
  unfold alongColumn
  split <;> omega

/-- The slot a coordinate has is owned by that coordinate: the inverse of R124. -/
theorem slotOwner_slotIndex {h x y : Nat} (hy : y < h) : slotOwner h (x * h + alongColumn h x y) = (x, y) := by
  have hlt := alongColumn_lt (x := x) hy
  have hpos : 0 < h := by omega
  have hcolumn : (x * h + alongColumn h x y) / h = x := by
    rw [Nat.add_comm, Nat.add_mul_div_right _ _ hpos, Nat.div_eq_of_lt hlt, Nat.zero_add]
  have hplace : (x * h + alongColumn h x y) % h = alongColumn h x y := by
    rw [Nat.add_comm, Nat.add_mul_mod_self_right, Nat.mod_eq_of_lt hlt]
  rw [slotOwner, hcolumn, hplace, alongColumn_alongColumn hy]

/-- Two coordinates in the display whose slots share a byte are the same (41_serpentine_mapper.md R124). -/
theorem coord_eq_of_shared_byte {c : Config} {x y x' y' : Coord} {a : Nat}
    (hin : inDisplay c x y = true) (hin' : inDisplay c x' y' = true)
    (hlo : pixAddress c x y ≤ a) (hhi : a < pixAddress c x y + 3)
    (hlo' : pixAddress c x' y' ≤ a) (hhi' : a < pixAddress c x' y' + 3) : x = x' ∧ y = y' := by
  obtain ⟨-, hy⟩ := inDisplay_iff.1 hin
  obtain ⟨-, hy'⟩ := inDisplay_iff.1 hin'
  have hindex : x.toNat * c.height + alongColumn c.height x.toNat y.toNat =
      x'.toNat * c.height + alongColumn c.height x'.toNat y'.toNat := by
    simp only [pixAddress, payloadOffset, soff] at hlo hhi hlo' hhi'
    omega
  have howner : (x.toNat, y.toNat) = (x'.toNat, y'.toNat) := by
    rw [← slotOwner_slotIndex hy, hindex, slotOwner_slotIndex hy']
  exact ⟨BitVec.eq_of_toNat_eq (Prod.mk.inj howner).1, BitVec.eq_of_toNat_eq (Prod.mk.inj howner).2⟩

end Sys2Proof.Machine

namespace Sys2Proof.Safety

open Sys2Proof.Machine

/-- Settles O28: in the display both stores are of the same bytes, and outside neither PIX stores any. -/
theorem repeatedPixLeavesFrame : Obligations.RepeatedPixLeavesFrame := by
  intro x y r g b s hi hs
  cases hin : inDisplay s.cfg x y with
  | true =>
    exact ⟨_, _, exec_pix_of_inDisplay hs hin r g b, exec_pix_of_inDisplay (by exact hs) (by exact hin) r g b,
      Memory.writeAll_writeAll_self hi.canonical _ _⟩
  | false =>
    exact ⟨_, _, exec_pix_of_not_inDisplay hs hin r g b, exec_pix_of_not_inDisplay (by exact hs) (by exact hin) r g b,
      rfl⟩

/-- Settles O47: the only step of a transmission without reset is the TX step, which reads `FRAME` and no command. -/
theorem transmissionLocksFrame : Obligations.TransmissionLocksFrame := by
  intro s t hi ht hr h
  have hready := hi.sending_ready ht
  obtain ⟨hrst, -⟩ := step_of_noReset h hr
  have hport : s.cmdReady = false := by simp [State.cmdReady, State.accepts, ht]
  have ha : s.action = .tx := s.action_eq_tx_iff.2 ⟨hrst, hready, ht⟩
  obtain ⟨u, heffect, rfl | rfl⟩ := step_tx_cases h ha hr
  all_goals exact ⟨hport, heffect.cmdQueue_eq, heffect.frame_eq, step_keeps_ready h hr hready, heffect.frameByte_eq⟩

theorem pixelOf_of_decode_pix {x y : Coord} {r g b : Byte} {w : CmdWord} (hw : decode w = .pix x y r g b) :
    pixelOf x y w = some (r, g, b) := by
  simp [pixelOf, hw]

/-- A step that takes in no reset and runs no PIX for a coordinate keeps every byte of its slot: INIT writes below the
payload, and a PIX for another coordinate writes another slot (20_memory.md R64, 42_frame_encoder.md R142). -/
theorem step_keeps_slot_byte {s t : State} {x y : Coord} {a : Nat} (h : step s = .next t) (hr : takesReset s = false)
    (hin : inDisplay s.cfg x y = true) (hpix : ∀ w, s.action = .cmd w → pixelOf x y w = none)
    (hlo : pixAddress s.cfg x y ≤ a) (hhi : a < pixAddress s.cfg x y + 3) : t.frameByte a = s.frameByte a := by
  by_contra hne
  obtain ⟨-, hheader⟩ | ⟨w, x', y', r, g, b, ha, hw, hin', hlo', hhi'⟩ := onlyInitAndPixWriteFrame s t a h hr hne
  · have hpayload : 4 ≤ pixAddress s.cfg x y := Nat.le_add_right 4 _
    omega
  · obtain ⟨rfl, rfl⟩ := coord_eq_of_shared_byte hin hin' hlo hhi hlo' hhi'
    cases (pixelOf_of_decode_pix hw).symm.trans (hpix w ha)

/-- Settles O48: the three bytes of the slot are kept, at the address the unchanging configuration gives. -/
theorem slotKeepsItsPixel : Obligations.SlotKeepsItsPixel := by
  intro s t x y p h hr hin ⟨hred, hgreen, hblue⟩ hpix
  have hkept : ∀ k < 3, t.frameByte (pixAddress s.cfg x y + k) = s.frameByte (pixAddress s.cfg x y + k) :=
    fun k hk => step_keeps_slot_byte h hr hin hpix (Nat.le_add_right _ _) (Nat.add_lt_add_left hk _)
  rw [SlotHolds, step_cfg h]
  exact ⟨(hkept 0 (by decide)).trans hred, (hkept 1 (by decide)).trans hgreen, (hkept 2 (by decide)).trans hblue⟩

end Sys2Proof.Safety

/-! PROOFS. Family 30_encoding.md: the decoder, the encoder and the assembler (R76 to R90), the response table (R84),
and the wire message of a transmission (R86, R87). -/
namespace Sys2Proof

/-! The decoder and the encoder, opcode by opcode (30_encoding.md R76, R77, R82). -/

/-- A command word is made of its four fields (30_encoding.md R76). -/
theorem packCmd_fields (w : CmdWord) :
    packCmd (CmdWord.op w) (CmdWord.x w) (CmdWord.y w) (CmdWord.pix w) = w := by
  apply BitVec.eq_of_toNat_eq
  rw [packCmd_toNat, CmdWord.op_toNat, CmdWord.x_toNat, CmdWord.y_toNat, CmdWord.pix_toNat]
  omega

/-- A mask acts on a command word field by field. -/
theorem packCmd_and_packCmd (op op' : BitVec 4) (x x' y y' : Coord) (p p' : PixelWord) :
    packCmd op x y p &&& packCmd op' x' y' p' = packCmd (op &&& op') (x &&& x') (y &&& y') (p &&& p') := by
  change (op ++ x ++ y ++ p) &&& (op' ++ x' ++ y' ++ p') = (op &&& op') ++ (x &&& x') ++ (y &&& y') ++ (p &&& p')
  simp only [BitVec.and_append]

/-- `pix[23:0]` are the three channels (30_encoding.md R78). -/
theorem PixelWord.and_channels (p : PixelWord) :
    p &&& 0x00FFFFFF#32 = packPixel (PixelWord.red p) (PixelWord.green p) (PixelWord.blue p) := by
  apply BitVec.eq_of_toNat_eq
  have hlow : (p &&& 0x00FFFFFF#32).toNat = p.toNat % 2 ^ 24 := Nat.and_two_pow_sub_one_eq_mod p.toNat 24
  rw [hlow, packPixel_toNat, PixelWord.red_toNat, PixelWord.green_toNat, PixelWord.blue_toNat]
  omega

/-- `pix[7:0]` is the blue channel, and the table index of GLUT (30_encoding.md R80). -/
theorem PixelWord.and_index (p : PixelWord) : p &&& 0xFF#32 = packPixel 0 0 (PixelWord.blue p) := by
  apply BitVec.eq_of_toNat_eq
  have hlow : (p &&& 0xFF#32).toNat = p.toNat % 2 ^ 8 := Nat.and_two_pow_sub_one_eq_mod p.toNat 8
  rw [hlow, packPixel_toNat, PixelWord.blue_toNat]
  simp

theorem decode_of_op_pix {w : CmdWord} (hop : CmdWord.op w = 0x1) :
    decode w = .pix (CmdWord.x w) (CmdWord.y w) (PixelWord.red (CmdWord.pix w)) (PixelWord.green (CmdWord.pix w))
      (PixelWord.blue (CmdWord.pix w)) := by
  rw [decode, hop]
  rfl

theorem decode_of_op_glut {w : CmdWord} (hop : CmdWord.op w = 0x3) :
    decode w = .glut (PixelWord.blue (CmdWord.pix w)) := by
  rw [decode, hop]
  rfl

theorem decode_of_op_soff {w : CmdWord} (hop : CmdWord.op w = 0x4) :
    decode w = .soff (CmdWord.x w) (CmdWord.y w) := by
  rw [decode, hop]
  rfl

/-- The decoder reads the opcode from `cmd[67:64]` (30_encoding.md R77, R82). -/
theorem opcode_decode (w : CmdWord) : opcode (decode w) = CmdWord.op w := by
  apply BitVec.eq_of_toNat_eq
  have hlt := (CmdWord.op w).isLt
  unfold decode
  split
  case h_16 =>
    change 15 = (CmdWord.op w).toNat
    simp only [imp_false] at *
    omega
  all_goals next hop => rw [hop]; rfl

/-- The encoder puts the opcode into `cmd[67:64]` (30_encoding.md R77). -/
@[simp] theorem op_encode (i : Instr) : CmdWord.op (encode i) = opcode i := by
  cases i <;> exact CmdWord.op_packCmd ..

/-- The encoder is a right inverse of the decoder. -/
@[simp] theorem decode_encode (i : Instr) : decode (encode i) = i := by
  cases i with
  | pix x y r g b =>
    rw [decode_of_op_pix (op_encode _)]
    simp [encode]
  | glut k =>
    rw [decode_of_op_glut (op_encode _)]
    simp [encode]
  | soff x y =>
    rw [decode_of_op_soff (op_encode _)]
    simp [encode]
  | nop | send | rsvd5 | rsvd6 | rsvd7 | rsvd8 | rsvd9 | rsvdA | rsvdB | rsvdC | rsvdD | rsvdE | rsvdF => rfl

/-- Decoding and encoding a word clears the bits its operation does not read, and no others (30_encoding.md R81). -/
theorem encode_decode (w : CmdWord) : encode (decode w) = w &&& readMask (CmdWord.op w) := by
  have hop := opcode_decode w
  conv => rhs; lhs; rw [← packCmd_fields w]
  cases hi : decode w with
  | pix x y r g b =>
    rw [hi] at hop
    rw [decode_of_op_pix hop.symm] at hi
    cases hi
    have hmask : readMask (CmdWord.op w) = packCmd (.allOnes 4) (.allOnes 16) (.allOnes 16) 0x00FFFFFF#32 := by
      rw [← hop]; rfl
    simp only [hmask, packCmd_and_packCmd, BitVec.and_allOnes, PixelWord.and_channels, encode, hop]
  | glut k =>
    rw [hi] at hop
    rw [decode_of_op_glut hop.symm] at hi
    cases hi
    have hmask : readMask (CmdWord.op w) = packCmd (.allOnes 4) 0#16 0#16 0xFF#32 := by rw [← hop]; rfl
    simp only [hmask, packCmd_and_packCmd, BitVec.and_allOnes, BitVec.and_zero, PixelWord.and_index, encode, hop]
    rfl
  | soff x y =>
    rw [hi] at hop
    rw [decode_of_op_soff hop.symm] at hi
    cases hi
    have hmask : readMask (CmdWord.op w) = packCmd (.allOnes 4) (.allOnes 16) (.allOnes 16) 0#32 := by
      rw [← hop]; rfl
    simp only [hmask, packCmd_and_packCmd, BitVec.and_allOnes, BitVec.and_zero, encode, hop]
    rfl
  | nop | send | rsvd5 | rsvd6 | rsvd7 | rsvd8 | rsvd9 | rsvdA | rsvdB | rsvdC | rsvdD | rsvdE | rsvdF =>
    rw [hi] at hop
    have hmask : readMask (CmdWord.op w) = packCmd (.allOnes 4) 0#16 0#16 0#32 := by rw [← hop]; rfl
    simp only [hmask, packCmd_and_packCmd, BitVec.and_allOnes, BitVec.and_zero, encode, hop]
    rfl

/-- Settles O3: the encoder is a right inverse of the decoder, and encoding what was decoded clears the ignored bits. -/
theorem decodeEncodeRoundTrip : Obligations.DecodeEncodeRoundTrip := by
  intro i
  have hzero := encode_decode (encode i)
  rw [decode_encode, op_encode] at hzero
  exact ⟨decode_encode i, op_encode i, hzero.symm⟩

/-- Every mask holds `cmd[67:64]`: the operation reads its own opcode (30_encoding.md R77). -/
theorem op_and_readMask (w : CmdWord) (op : BitVec 4) : CmdWord.op (w &&& readMask op) = CmdWord.op w := by
  have hones : CmdWord.op (readMask op) = .allOnes 4 := by unfold readMask; split <;> rfl
  rw [CmdWord.op] at hones ⊢
  rw [BitVec.extractLsb'_and, hones, BitVec.and_allOnes, CmdWord.op]

/-- Words decode to the same command exactly when they agree on the bits its operation reads (30_encoding.md R81). -/
theorem decode_eq_iff (v w : CmdWord) :
    decode v = decode w ↔ v &&& readMask (CmdWord.op v) = w &&& readMask (CmdWord.op v) := by
  constructor
  · intro hsame
    have hop : CmdWord.op v = CmdWord.op w := by rw [← opcode_decode v, hsame, opcode_decode w]
    rw [← encode_decode v, hsame, encode_decode w, hop]
  · intro hagree
    have hop : CmdWord.op v = CmdWord.op w := by
      rw [← op_and_readMask v (CmdWord.op v), hagree, op_and_readMask]
    calc decode v = decode (v &&& readMask (CmdWord.op v)) := by rw [← encode_decode, decode_encode]
      _ = decode (w &&& readMask (CmdWord.op w)) := by rw [hagree, hop]
      _ = decode w := by rw [← encode_decode, decode_encode]

/-- Settles O2: words that agree on what their operation reads are one command. -/
theorem decodeReadsExactlyItsFields : Obligations.DecodeReadsExactlyItsFields := by
  intro v w
  refine ⟨decode_eq_iff v w, fun hagree s => ?_⟩
  rw [(decode_eq_iff v w).2 hagree]

/-- A channel of `cmd.pix` is a slice of the command word (30_encoding.md R76, R78). -/
theorem extract_pix (w : CmdWord) {lo : Nat} (hlo : lo + 8 ≤ 32) :
    (CmdWord.pix w).extractLsb' lo 8 = w.extractLsb' lo 8 := by
  apply BitVec.eq_of_getElem_eq
  intro i hi
  have : lo + i < 32 := by omega
  simp [CmdWord.pix, this]

/-- Settles O1: the sixteen rows of the opcode table, and the bits each operation reads. -/
theorem decoderFollowsOpcodeMap : Obligations.DecoderFollowsOpcodeMap := by
  intro w
  have hlast : ∀ v : CmdWord, w &&& readMask (CmdWord.op w) = v &&& readMask (CmdWord.op w) → decode w = decode v :=
    fun v => (decode_eq_iff w v).2
  refine ⟨?_, fun hop => ?_, ?_, fun hop => ?_, ?_, ?_, ?_, ?_, ?_, ?_, ?_, ?_, ?_, ?_, ?_, ?_, hlast⟩
  case refine_2 =>
    rw [decode_of_op_pix hop, PixelWord.red, PixelWord.green, PixelWord.blue, extract_pix w (by decide),
      extract_pix w (by decide), extract_pix w (by decide)]
    rfl
  case refine_4 =>
    rw [decode_of_op_glut hop, PixelWord.blue, extract_pix w (by decide)]
  all_goals
    intro hop
    rw [decode, CmdWord.op, hop]
    rfl

end Sys2Proof

namespace Sys2Proof.Machine

/-! The assembler lines and ENCODE_FRAME (30_encoding.md R89, R90). -/

theorem red_ofNat (p : Nat) : PixelWord.red (BitVec.ofNat 32 p) = BitVec.ofNat 8 (p / 2 ^ 16) := by
  apply BitVec.eq_of_toNat_eq
  rw [PixelWord.red_toNat, BitVec.toNat_ofNat, BitVec.toNat_ofNat]
  omega

theorem green_ofNat (p : Nat) : PixelWord.green (BitVec.ofNat 32 p) = BitVec.ofNat 8 (p / 2 ^ 8) := by
  apply BitVec.eq_of_toNat_eq
  rw [PixelWord.green_toNat, BitVec.toNat_ofNat, BitVec.toNat_ofNat]
  omega

theorem blue_ofNat (p : Nat) : PixelWord.blue (BitVec.ofNat 32 p) = BitVec.ofNat 8 p := by
  apply BitVec.eq_of_toNat_eq
  rw [PixelWord.blue_toNat, BitVec.toNat_ofNat, BitVec.toNat_ofNat]
  omega

theorem blue_setWidth (k : Byte) : PixelWord.blue (k.setWidth 32) = k := by
  apply BitVec.eq_of_toNat_eq
  rw [PixelWord.blue_toNat, BitVec.toNat_setWidth]
  omega

/-- A line's word decodes to the operation the line names (30_encoding.md R89). -/
theorem decode_word (l : AsmLine) : decode l.word = l.operation := by
  cases l with
  | nop => rfl
  | pix x y p =>
    rw [decode_of_op_pix (by exact CmdWord.op_packCmd ..)]
    simp [AsmLine.word, AsmLine.operation, red_ofNat, green_ofNat, blue_ofNat]
  | send => rfl
  | glut i =>
    rw [decode_of_op_glut (by exact CmdWord.op_packCmd ..)]
    simp only [AsmLine.word, AsmLine.operation, CmdWord.pix_packCmd, blue_setWidth]
  | soff x y =>
    rw [decode_of_op_soff (by exact CmdWord.op_packCmd ..)]
    simp [AsmLine.word, AsmLine.operation]

/-- Settles O5: the word is a packed command, and a number that fits its field is the field. -/
theorem assemblerLinesNameTheirOperation : Obligations.AssemblerLinesNameTheirOperation := by
  intro l hfits
  refine ⟨decode_word l, ?_⟩
  cases l with
  | nop => rfl
  | pix x y p =>
    simp only [AsmLine.wellFormed, Bool.and_eq_true, decide_eq_true_eq] at hfits
    simp only [AsmLine.word, packCmd_toNat, BitVec.ofNat_eq_ofNat, BitVec.toNat_ofNat]
    omega
  | send => rfl
  | glut i =>
    simp only [AsmLine.wellFormed, decide_eq_true_eq] at hfits
    simp only [AsmLine.word, packCmd_toNat, BitVec.ofNat_eq_ofNat, BitVec.toNat_setWidth, BitVec.toNat_ofNat]
    omega
  | soff x y =>
    simp only [AsmLine.wellFormed, Bool.and_eq_true, decide_eq_true_eq] at hfits
    simp only [AsmLine.word, packCmd_toNat, BitVec.ofNat_eq_ofNat, BitVec.toNat_ofNat]
    omega

/-- The lines of ENCODE_FRAME: one PIX for each coordinate of the display (30_encoding.md R90). -/
theorem mem_encodeFrame {c : Config} {buf : Nat → Nat → Nat} {l : AsmLine} :
    l ∈ encodeFrame c buf ↔ ∃ x < c.width, ∃ y < c.height, l = .pix x y (buf x y) := by
  simp [encodeFrame, eq_comm]

theorem encodeFrame_length (c : Config) (buf : Nat → Nat → Nat) : (encodeFrame c buf).length = c.pixels := by
  simp [encodeFrame, List.length_flatMap, Config.pixels]

end Sys2Proof.Machine

namespace Sys2Proof

/-- A display width or height fits a coordinate field (00_scope.md R7). -/
theorem Config.width_lt (c : Config) : c.width < 2 ^ 16 := by
  have hle := c.width_le_pixels.trans c.pixels_le
  omega

theorem Config.height_lt (c : Config) : c.height < 2 ^ 16 := by
  have hle := c.height_le_pixels.trans c.pixels_le
  omega

end Sys2Proof

namespace Sys2Proof.Safety

open Sys2Proof.Machine

/-- The channels of a packed pixel `0xAARRGGBB` (30_encoding.md R78). -/
def channels (p : Nat) : Byte × Byte × Byte :=
  (BitVec.ofNat 8 (p / 2 ^ 16), BitVec.ofNat 8 (p / 2 ^ 8), BitVec.ofNat 8 p)

/-- The last pixel of a sequence is the first one met from its end. -/
theorem lastPixel_eq_findSome? (x y : Coord) (ws : List CmdWord) :
    lastPixel x y ws = ws.reverse.findSome? (pixelOf x y) := by
  induction ws with
  | nil => rfl
  | cons w ws ih =>
    rw [lastPixel, ih, List.reverse_cons, List.findSome?_append, List.findSome?_singleton]

/-- A sequence that gives a coordinate one pixel and never another gives it that pixel last. -/
theorem lastPixel_eq_some {x y : Coord} {p : Byte × Byte × Byte} {ws : List CmdWord}
    (hgiven : ∃ w ∈ ws, pixelOf x y w = some p) (hsame : ∀ w ∈ ws, ∀ q, pixelOf x y w = some q → q = p) :
    lastPixel x y ws = some p := by
  rw [lastPixel_eq_findSome?]
  cases hlast : ws.reverse.findSome? (pixelOf x y) with
  | none =>
    obtain ⟨w, hw, hp⟩ := hgiven
    simp [List.findSome?_eq_none_iff.1 hlast w (List.mem_reverse.2 hw)] at hp
  | some q =>
    obtain ⟨w, hw, hq⟩ := List.exists_of_findSome?_eq_some hlast
    rw [hsame w (List.mem_reverse.1 hw) q hq]

/-- A PIX line gives its coordinate its pixel, and no other coordinate one. -/
theorem pixelOf_pix_word {x y : Coord} {x' y' p : Nat} (hx : x' < 2 ^ 16) (hy : y' < 2 ^ 16) :
    pixelOf x y (AsmLine.pix x' y' p).word = if x' = x.toNat ∧ y' = y.toNat then some (channels p) else none := by
  have hcoord : ∀ {k : Nat} {z : Coord}, k < 2 ^ 16 → (BitVec.ofNat 16 k = z ↔ k = z.toNat) := fun hk => by
    rw [← BitVec.toNat_inj, BitVec.toNat_ofNat, Nat.mod_eq_of_lt hk]
  simp only [pixelOf, decode_word, AsmLine.operation, hcoord hx, hcoord hy]
  rfl

/-- ENCODE_FRAME gives each coordinate of the display its pixel of the buffer, and no other (30_encoding.md R90). -/
theorem lastPixel_encodeFrame {c : Config} {x y : Coord} (buf : Nat → Nat → Nat) (hin : inDisplay c x y = true) :
    lastPixel x y ((encodeFrame c buf).map AsmLine.word) = some (channels (buf x.toNat y.toNat)) := by
  obtain ⟨hx, hy⟩ := inDisplay_iff.1 hin
  apply lastPixel_eq_some
  · refine ⟨_, List.mem_map_of_mem (mem_encodeFrame.2 ⟨x.toNat, hx, y.toNat, hy, rfl⟩), ?_⟩
    rw [pixelOf_pix_word x.isLt y.isLt, if_pos ⟨rfl, rfl⟩]
  · intro w hw q hq
    obtain ⟨l, hl, rfl⟩ := List.mem_map.1 hw
    obtain ⟨x', hx', y', hy', rfl⟩ := mem_encodeFrame.1 hl
    rw [pixelOf_pix_word (hx'.trans c.width_lt) (hy'.trans c.height_lt)] at hq
    split at hq
    · next hsame =>
      cases hq
      rw [hsame.1, hsame.2]
    · cases hq

/-- Every word of ENCODE_FRAME is a PIX inside the display (30_encoding.md R90). -/
theorem decode_encodeFrame {c : Config} {buf : Nat → Nat → Nat} {w : CmdWord}
    (hw : w ∈ (encodeFrame c buf).map AsmLine.word) :
    ∃ x y r g b, decode w = .pix x y r g b ∧ inDisplay c x y = true := by
  obtain ⟨l, hl, rfl⟩ := List.mem_map.1 hw
  obtain ⟨x, hx, y, hy, rfl⟩ := mem_encodeFrame.1 hl
  refine ⟨_, _, _, _, _, decode_word _, inDisplay_iff.2 ?_⟩
  rw [BitVec.toNat_ofNat, BitVec.toNat_ofNat, Nat.mod_eq_of_lt (hx.trans c.width_lt),
    Nat.mod_eq_of_lt (hy.trans c.height_lt)]
  exact ⟨hx, hy⟩

/-- Settles O6: the lines are the coordinates of the display, each with its own pixel. -/
theorem encodeFrameVisitsEveryCoordinate : Obligations.EncodeFrameVisitsEveryCoordinate :=
  fun c buf => ⟨encodeFrame_length c buf, fun _ => decode_encodeFrame, fun _ _ => lastPixel_encodeFrame buf⟩

end Sys2Proof.Safety

namespace Sys2Proof.Machine

/-! What each accepted command answers (30_encoding.md R84); PIX and SEND stand with the earlier families. -/

theorem exec_nop {s : State} (hs : s.accepts = true) : exec .nop s = .next (s.respond .ok 0) :=
  State.ifAccepted_of_accepts hs _

theorem exec_glut {s : State} (hs : s.accepts = true) (k : Byte) :
    exec (.glut k) s = .next (s.respond .ok ((gamma k).setWidth 16)) :=
  State.ifAccepted_of_accepts hs _

theorem exec_soff_of_inDisplay {x y : Coord} {s : State} (hs : s.accepts = true)
    (hin : inDisplay s.cfg x y = true) :
    exec (.soff x y) s = .next (s.respond .ok (BitVec.ofNat 16 (payloadOffset s.cfg x y))) := by
  rw [exec, execSoff, State.ifAccepted_of_accepts hs, if_pos hin]

theorem exec_soff_of_not_inDisplay {x y : Coord} {s : State} (hs : s.accepts = true)
    (hout : inDisplay s.cfg x y = false) : exec (.soff x y) s = .next (s.raise .coordError) := by
  rw [exec, execSoff, State.ifAccepted_of_accepts hs, hout, if_neg Bool.false_ne_true]

/-- The eleven reserved opcodes have one meaning (42_frame_encoder.md R155). -/
theorem exec_reserved {i : Instr} {s : State} (hs : s.accepts = true) (hi : i.reserved = true) :
    exec i s = .next (s.raise .illegalCommand) := by
  cases i
  case nop | pix | send | glut | soff => simp [Instr.reserved] at hi
  all_goals exact State.ifAccepted_of_accepts hs _

/-- The comparison of R79 fails when a coordinate is too large. -/
theorem not_inDisplay_iff {c : Config} {x y : Coord} :
    inDisplay c x y = false ↔ x.toNat ≥ c.width ∨ y.toNat ≥ c.height := by
  rw [← Bool.not_eq_true, inDisplay_iff]
  omega

/-- The offset of a coordinate in the display leaves room for its three bytes in the payload
(41_serpentine_mapper.md R121). -/
theorem payloadOffset_le {c : Config} {x y : Coord} (hin : inDisplay c x y = true) : payloadOffset c x y ≤ 65532 := by
  have hslot := pixAddress_add_le hin
  have hlen := c.frameLen_le
  rw [pixAddress] at hslot
  omega

/-- The rows of the response table for commands answered at once (30_encoding.md R84). -/
inductive TableAnswer (c : Config) : Instr → RspCode → RspData → Prop where
  | nop : TableAnswer c .nop .ok 0
  | glut (k : Byte) : TableAnswer c (.glut k) .ok ((gamma k).setWidth 16)
  | soffInside (x y : Coord) : inDisplay c x y = true →
      TableAnswer c (.soff x y) .ok (BitVec.ofNat 16 (payloadOffset c x y))
  | soffOutside (x y : Coord) : inDisplay c x y = false → TableAnswer c (.soff x y) .coordError 0
  | pixInside (x y : Coord) (r g b : Byte) : inDisplay c x y = true → TableAnswer c (.pix x y r g b) .ok 0
  | pixOutside (x y : Coord) (r g b : Byte) : inDisplay c x y = false → TableAnswer c (.pix x y r g b) .coordError 0
  | reserved (i : Instr) : i.reserved = true → TableAnswer c i .illegalCommand 0

/-- Every accepted command but SEND puts out the row of the response table for it, and nothing else. -/
theorem exec_tableAnswer {i : Instr} {s t : State} (hs : s.accepts = true) (h : exec i s = .next t) (hi : i ≠ .send) :
    ∃ c d, t.outs = s.outs ++ [.rsp c d] ∧ TableAnswer s.cfg i c d := by
  cases i with
  | nop =>
    cases (exec_nop hs).symm.trans h
    exact ⟨_, _, rfl, .nop⟩
  | pix x y r g b =>
    cases hin : inDisplay s.cfg x y with
    | true =>
      cases (exec_pix_of_inDisplay hs hin r g b).symm.trans h
      exact ⟨_, _, rfl, .pixInside x y r g b hin⟩
    | false =>
      cases (exec_pix_of_not_inDisplay hs hin r g b).symm.trans h
      exact ⟨_, _, rfl, .pixOutside x y r g b hin⟩
  | send => exact absurd rfl hi
  | glut k =>
    cases (exec_glut hs k).symm.trans h
    exact ⟨_, _, rfl, .glut k⟩
  | soff x y =>
    cases hin : inDisplay s.cfg x y with
    | true =>
      cases (exec_soff_of_inDisplay hs hin).symm.trans h
      exact ⟨_, _, rfl, .soffInside x y hin⟩
    | false =>
      cases (exec_soff_of_not_inDisplay hs hin).symm.trans h
      exact ⟨_, _, rfl, .soffOutside x y hin⟩
  | rsvd5 | rsvd6 | rsvd7 | rsvd8 | rsvd9 | rsvdA | rsvdB | rsvdC | rsvdD | rsvdE | rsvdF =>
    cases (exec_reserved hs rfl).symm.trans h
    exact ⟨_, _, rfl, .reserved _ rfl⟩

/-- Settles O27: the obligation reads the response table row by row. -/
theorem answersFollowResponseTable : Obligations.AnswersFollowResponseTable := by
  refine ⟨⟨rfl, rfl, rfl, rfl⟩, fun i s t hs h => ⟨?_, fun hi => ?_⟩⟩
  · rintro rfl
    cases (exec_send hs).symm.trans h
    rfl
  · obtain ⟨c, d, houts, hrow⟩ := exec_tableAnswer hs h hi
    refine ⟨c, d, houts, ?_⟩
    cases hrow with
    | nop => exact ⟨.inl rfl, fun _ => .inr (.inr ⟨rfl, .inl rfl⟩)⟩
    | glut k => exact ⟨.inl rfl, fun _ => .inl ⟨k, rfl, BitVec.toNat_setWidth_of_le (by decide)⟩⟩
    | soffInside x y hin =>
      obtain ⟨hx, hy⟩ := inDisplay_iff.1 hin
      have hle := payloadOffset_le hin
      have hdata : (BitVec.ofNat 16 (payloadOffset s.cfg x y)).toNat = payloadOffset s.cfg x y :=
        Nat.mod_eq_of_lt (by omega)
      exact ⟨.inl rfl, fun _ => .inr (.inl ⟨x, y, rfl, hx, hy, hdata, hdata.trans_le hle⟩)⟩
    | soffOutside x y hout =>
      exact ⟨.inr (.inl ⟨rfl, rfl, x, y, .inl rfl, not_inDisplay_iff.1 hout⟩), fun hok => nomatch hok⟩
    | pixInside x y r g b hin =>
      obtain ⟨hx, hy⟩ := inDisplay_iff.1 hin
      exact ⟨.inl rfl, fun _ => .inr (.inr ⟨rfl, .inr ⟨x, y, r, g, b, rfl, hx, hy⟩⟩)⟩
    | pixOutside x y r g b hout =>
      exact ⟨.inr (.inl ⟨rfl, rfl, x, y, .inr ⟨r, g, b, rfl⟩, not_inDisplay_iff.1 hout⟩), fun hok => nomatch hok⟩
    | reserved i hres => exact ⟨.inr (.inr ⟨rfl, rfl, hres⟩), fun hok => nomatch hok⟩

end Sys2Proof.Machine

namespace Sys2Proof.Safety

open Sys2Proof.Machine

/-! One step of a block with no reset to come: a presented command, SEND and the sink's answers
(42_frame_encoder.md R140, R145, R150). -/

theorem NoReset.rstAtResponse_eq_false {s : State} (h : NoReset s) : s.rstAtResponse = false :=
  NoReset.rst_eq_false (h.of_tail (t := s.tick) rfl)

theorem NoReset.takesReset_eq_false {s : State} (h : NoReset s) : takesReset s = false := by
  simp [takesReset, h.rst_eq_false, h.rstAtResponse_eq_false]

/-- The two edges of a step and of its response use up two levels of `rst`. -/
theorem NoReset.of_tail_tail {s t : State} (h : NoReset s) (ht : t.rstPins = s.rstPins.tail.tail) : NoReset t :=
  (h.of_tail (t := s.tick) rfl).of_tail ht

/-- A presented SEND leaves the port and starts the transmission, and nothing else happens (42_frame_encoder.md R145). -/
theorem step_send {s : State} {w : CmdWord} {ws : List CmdWord} (hn : NoReset s) (hs : s.accepts = true)
    (hq : s.cmdQueue = w :: ws) (hw : decode w = .send) :
    step s = .next { s with rstPins := s.rstPins.tail, cmdQueue := ws, txIdx := 0, txActive := true } := by
  obtain ⟨he, ht⟩ := s.accepts_iff.1 hs
  obtain ⟨t, hexec, hstep, -⟩ := stepRunsPresentedCommand s w ws .send hn.rst_eq_false he ht hq hw rfl
  rw [exec_send (by exact hs)] at hexec
  cases hexec
  exact hstep rfl

/-- The bytes `FRAME[k .. k+n-1]` as the sink receives them, marked at `FLEN - 1` (30_encoding.md R87). -/
def offered (s : State) (k n : Nat) : List Output :=
  (List.range' k n).map fun a => .byte (s.frameByte a) (decide (a = s.cfg.frameLen - 1))

theorem offered_succ (s : State) (k n : Nat) :
    offered s k (n + 1) = .byte (s.frameByte k) (decide (k = s.cfg.frameLen - 1)) :: offered s (k + 1) n := rfl

theorem acceptCount_cons (p : SinkPins) (ps : List SinkPins) :
    acceptCount (p :: ps) = acceptCount ps + if p.answer = .accept then 1 else 0 := by
  simp [acceptCount, List.countP_cons]

/-- A sink that never fails and is ready at its last answer accepts a byte. -/
theorem acceptCount_pos {ps : List SinkPins} (hfail : ∀ p ∈ ps, p.fail = false)
    (hlast : ∃ p, ps.getLast? = some p ∧ p.ready = true) : 0 < acceptCount ps := by
  obtain ⟨p, hp, hr⟩ := hlast
  have hmem := List.mem_of_getLast? hp
  exact List.countP_pos_iff.2 ⟨p, hmem, by simp [SinkPins.answer, hfail p hmem, hr]⟩

/-- `t` is `s` after its transmission has put out `evs`: only the ports and the transmitter have moved, and the answers
`rest` of the sink are left. -/
structure HasSent (s t : State) (evs : List Output) (rest : List SinkPins) : Prop where
  cfg : t.cfg = s.cfg
  encState : t.encState = s.encState
  frame : t.frame = s.frame
  frameDraw : t.frameDraw = s.frameDraw
  txActive : t.txActive = false
  cmdQueue : t.cmdQueue = s.cmdQueue
  sinkPins : t.sinkPins = rest
  outs : t.outs = s.outs ++ evs

/-- The end of a transmission makes the command port ready again (42_frame_encoder.md R150). -/
theorem HasSent.accepts {s t : State} {evs : List Output} {rest : List SinkPins} (h : HasSent s t evs rest)
    (he : s.encState = .ready) : t.accepts = true :=
  t.accepts_iff.2 ⟨h.encState.trans he, h.txActive⟩

theorem HasSent.of_wait {s t : State} {evs : List Output} {rest : List SinkPins}
    (h : HasSent s.tick.takeAnswer t evs rest) : HasSent s t evs rest :=
  { h with }

/-- The byte a TX step puts out comes before what is put out after it. -/
theorem HasSent.of_byte {s t : State} {b : Byte} {l : Bool} {evs : List Output} {rest : List SinkPins}
    (h : HasSent (s.tick.takeAnswer.emit b l).advance t evs rest) : HasSent s t (.byte b l :: evs) rest :=
  { h with outs := h.outs.trans (List.append_cons ..).symm }

theorem step_tx_wait {s : State} {p : SinkPins} {ps : List SinkPins} (ha : s.action = .tx) (hp : s.sinkPins = p :: ps)
    (hans : p.answer = .wait) : step s = .next s.tick.takeAnswer :=
  step_of_quiet (operate_tx ha (.waited p ps hp hans)) (by simp [responseDue, ha, sinkAnswer, hp, hans])

theorem step_tx_more {s : State} {p : SinkPins} {ps : List SinkPins} (ha : s.action = .tx) (hp : s.sinkPins = p :: ps)
    (hans : p.answer = .accept) (hmore : s.txIdx.toNat + 1 < s.cfg.frameLen) :
    step s = .next (s.tick.takeAnswer.emit (s.frameByte s.txIdx.toNat) false).advance :=
  step_of_quiet (operate_tx ha (.acceptedMore p ps hp hans hmore))
    (by simp [responseDue, ha, sinkAnswer, hp, hans, State.atLastByte, hmore.ne])

theorem step_tx_last {s : State} {p : SinkPins} {ps : List SinkPins} (hn : NoReset s) (ha : s.action = .tx)
    (hp : s.sinkPins = p :: ps) (hans : p.answer = .accept) (hlast : s.txIdx.toNat + 1 = s.cfg.frameLen) :
    step s =
      .next ((s.tick.takeAnswer.emit (s.frameByte s.txIdx.toNat) true).endTransmission.respond .ok 0).tick :=
  step_of_answered (operate_tx ha (.acceptedLast p ps hp hans hlast))
    (by simp [responseDue, ha, sinkAnswer, hp, hans, State.atLastByte, hlast]) hn.rstAtResponse_eq_false

/-- A transmission whose sink never fails and accepts the rest of the frame delivers it in order, and then OK
(42_frame_encoder.md R150, R151). -/
theorem run_transmission (ps rest : List SinkPins) {s : State} (hn : NoReset s) (he : s.encState = .ready)
    (ht : s.txActive = true) (hp : s.sinkPins = ps ++ rest) (hfail : ∀ p ∈ ps, p.fail = false)
    (hcount : s.txIdx.toNat + acceptCount ps = s.cfg.frameLen) (hlast : ∃ p, ps.getLast? = some p ∧ p.ready = true) :
    ∃ t, run ps.length s = .next t ∧
      HasSent s t (offered s s.txIdx.toNat (acceptCount ps) ++ [.rsp .ok 0]) rest := by
  induction ps generalizing s with
  | nil => simp at hlast
  | cons p ps ih =>
    have hf : p.fail = false := hfail p (List.mem_cons_self ..)
    have ha : s.action = .tx := s.action_eq_tx_iff.2 ⟨hn.rst_eq_false, he, ht⟩
    rw [acceptCount_cons] at hcount ⊢
    cases ps with
    | nil =>
      have hr : p.ready = true := by simpa using hlast
      have hans : p.answer = .accept := by simp [SinkPins.answer, hf, hr]
      have hcount' : s.txIdx.toNat + 1 = s.cfg.frameLen := by simpa [acceptCount, hans] using hcount
      have hidx := (txIdx_eq_last_iff s).2 hcount'
      refine ⟨_, run_succ 0 (step_tx_last hn ha hp hans hcount'), ?_⟩
      rw [if_pos hans, offered_succ, decide_eq_true hidx]
      have hpins : s.sinkPins.tail = rest := by rw [hp]; rfl
      exact ⟨rfl, rfl, rfl, rfl, rfl, rfl, hpins, List.append_assoc ..⟩
    | cons p' ps =>
      have hlast' : ∃ q, (p' :: ps).getLast? = some q ∧ q.ready = true := by simpa using hlast
      have hfail' : ∀ q ∈ p' :: ps, q.fail = false := fun q hq => hfail q (List.mem_cons_of_mem _ hq)
      have hp' : s.sinkPins.tail = p' :: ps ++ rest := by rw [hp]; rfl
      cases hr : p.ready with
      | false =>
        have hans : p.answer = .wait := by simp [SinkPins.answer, hf, hr]
        obtain ⟨t, hrun, hsent⟩ := ih (s := s.tick.takeAnswer) (hn.of_tail rfl) he ht hp' hfail'
          (by simpa [hans] using hcount) hlast'
        refine ⟨t, (run_succ _ (step_tx_wait ha hp hans)).trans hrun, ?_⟩
        rw [if_neg (by simp [hans])]
        exact hsent.of_wait
      | true =>
        have hans : p.answer = .accept := by simp [SinkPins.answer, hf, hr]
        have hpos := acceptCount_pos hfail' hlast'
        rw [if_pos hans] at hcount ⊢
        have hmore : s.txIdx.toNat + 1 < s.cfg.frameLen := by omega
        have hnext := txIdx_succ_toNat hmore
        obtain ⟨t, hrun, hsent⟩ := ih (s := (s.tick.takeAnswer.emit (s.frameByte s.txIdx.toNat) false).advance)
          (hn.of_tail rfl) he ht hp' hfail' (by change (s.txIdx + 1).toNat + _ = s.cfg.frameLen; omega) hlast'
        refine ⟨t, (run_succ _ (step_tx_more ha hp hans hmore)).trans hrun, ?_⟩
        rw [State.advance_txIdx, State.emit_txIdx, State.takeAnswer_txIdx, State.tick_txIdx, hnext] at hsent
        rw [offered_succ, decide_eq_false (by omega)]
        exact hsent.of_byte

end Sys2Proof.Safety

namespace Sys2Proof.Safety

open Sys2Proof.Machine

/-! A whole SEND, and what its bytes are (30_encoding.md R86, R87, 42_frame_encoder.md R151). -/

/-- A presented SEND whose sink never fails and accepts `FLEN` times delivers the whole frame and then OK. -/
theorem run_send {s : State} {w : CmdWord} {ws : List CmdWord} {ps rest : List SinkPins} (hn : NoReset s)
    (hs : s.accepts = true) (hq : s.cmdQueue = w :: ws) (hw : decode w = .send) (hp : s.sinkPins = ps ++ rest)
    (hfail : ∀ p ∈ ps, p.fail = false) (hcount : acceptCount ps = s.cfg.frameLen)
    (hlast : ∃ p, ps.getLast? = some p ∧ p.ready = true) :
    ∃ t, run (ps.length + 1) s = .next t ∧
      HasSent { s with cmdQueue := ws } t (offered s 0 s.cfg.frameLen ++ [.rsp .ok 0]) rest := by
  obtain ⟨he, -⟩ := s.accepts_iff.1 hs
  obtain ⟨t, hrun, hsent⟩ := run_transmission ps rest
    (s := { s with rstPins := s.rstPins.tail, cmdQueue := ws, txIdx := 0, txActive := true })
    (hn.of_tail rfl) he rfl hp hfail ((Nat.zero_add _).trans hcount) hlast
  rw [hcount] at hsent
  exact ⟨t, (run_succ _ (step_send hn hs hq hw)).trans hrun, { hsent with }⟩

/-- The bytes of `FRAME`, address 0 first. -/
def frameBytes (s : State) : List Byte := (List.range s.cfg.frameLen).map s.frameByte

theorem frameBytes_getElem? {s : State} {k : Nat} (hk : k < s.cfg.frameLen) :
    (frameBytes s)[k]? = some (s.frameByte k) := by
  simp [frameBytes, hk]

theorem frameBytes_length (s : State) : (frameBytes s).length = s.cfg.frameLen := by simp [frameBytes]

/-- What a whole transmission puts out, read from the list of the bytes of `FRAME`. -/
theorem offered_frame (s : State) :
    offered s 0 s.cfg.frameLen = (List.range s.cfg.frameLen).map
      (fun k => Output.byte ((frameBytes s).getD k 0) (decide (k = s.cfg.frameLen - 1))) := by
  rw [offered, ← List.range_eq_range']
  refine List.map_congr_left fun k hk => ?_
  rw [List.getD_eq_getElem?_getD, frameBytes_getElem? (List.mem_range.1 hk), Option.getD_some]

/-- The held header is the list of R51. -/
theorem HeaderHeld.bytes {s : State} (h : HeaderHeld s) :
    [s.frameByte 0, s.frameByte 1, s.frameByte 2, s.frameByte 3] = headerOf s.cfg := by
  obtain ⟨h0, h1, h2, h3⟩ := h
  rw [h0, h1, headerOf, ← h2, ← h3, BitVec.ofNat_toNat, BitVec.ofNat_toNat, BitVec.setWidth_eq, BitVec.setWidth_eq]

/-- `FRAME` is the header and the slots, three bytes each (20_memory.md R50). -/
theorem map_range_slots {α : Type} (f : Nat → α) (n : Nat) :
    (List.range (4 + 3 * n)).map f =
      [f 0, f 1, f 2, f 3] ++
        (List.range n).flatMap fun k => [f (4 + 3 * k), f (4 + 3 * k + 1), f (4 + 3 * k + 2)] := by
  induction n with
  | zero => rfl
  | succ n ih =>
    have hlen : 4 + 3 * (n + 1) = 4 + 3 * n + 1 + 1 + 1 := by omega
    rw [hlen, List.range_succ, List.range_succ, List.range_succ, List.range_succ]
    simp [ih]

theorem frameBytes_take_four (s : State) :
    (frameBytes s).take 4 = [s.frameByte 0, s.frameByte 1, s.frameByte 2, s.frameByte 3] := by
  rw [frameBytes, Config.frameLen, Config.payloadLen, map_range_slots]
  rfl

/-- Settles O53: the bytes put out are those of `FRAME`, which holds the header and the corrected pixels. -/
theorem sentFrameIsOpcMessage : Obligations.SentFrameIsOpcMessage := by
  intro s w ws ps rest hi hn he ht hq hw hp hfail hcount hlast
  obtain ⟨t, hrun, hsent⟩ := run_send hn (s.accepts_iff.2 ⟨he, ht⟩) hq hw hp hfail hcount hlast
  refine ⟨t, frameBytes s, hrun, ?_, frameBytes_length s, ?_, fun x y p hin hheld => ?_⟩
  · rw [hsent.outs, offered_frame, List.append_assoc]
  · rw [frameBytes_take_four, (hi.header he).bytes, headerOf]
  · obtain ⟨hred, hgreen, hblue⟩ := hheld
    have hslot := pixAddress_add_le hin
    have hbyte : ∀ k < 3, (frameBytes s)[pixAddress s.cfg x y + k]? = some (s.frameByte (pixAddress s.cfg x y + k)) :=
      fun k hk => frameBytes_getElem? (by omega)
    exact ⟨(hbyte 0 (by decide)).trans (congrArg some hred), (hbyte 1 (by decide)).trans (congrArg some hgreen),
      (hbyte 2 (by decide)).trans (congrArg some hblue)⟩

end Sys2Proof.Safety

namespace Sys2Proof.Machine

/-- A command other than SEND leaves the port ready and the sink unasked. -/
theorem CommandEffect.port_eq {i : Instr} {s t : State} (h : CommandEffect i s t) (hi : i ≠ .send) :
    t.accepts = s.accepts ∧ t.cmdQueue = s.cmdQueue ∧ t.sinkPins = s.sinkPins := by
  cases h with
  | answered | stored => exact ⟨rfl, rfl, rfl⟩
  | started hsend => exact absurd hsend hi

/-- The slot a coordinate owns is the one it was found at (41_serpentine_mapper.md R124). -/
theorem soff_slotOwner {h k : Nat} (hpos : 0 < h) : soff h (slotOwner h k).1 (slotOwner h k).2 = 3 * k := by
  simp only [soff, slotOwner, alongColumn_alongColumn (Nat.mod_lt k hpos), Nat.div_add_mod']

/-- The owner of a slot of the payload lies in the display (41_serpentine_mapper.md R124). -/
theorem slotOwner_lt {c : Config} {k : Nat} (hk : k < c.pixels) :
    (slotOwner c.height k).1 < c.width ∧ (slotOwner c.height k).2 < c.height :=
  ⟨(Nat.div_lt_iff_lt_mul c.height_pos).2 hk, alongColumn_lt (Nat.mod_lt k c.height_pos)⟩

end Sys2Proof.Machine

namespace Sys2Proof.Safety

open Sys2Proof.Machine

/-! A run of commands other than SEND, and SEND_FRAME (30_encoding.md R90, 42_frame_encoder.md R142). -/

/-- A presented command other than SEND runs at once, and its answer follows. -/
theorem step_command {s : State} {w : CmdWord} (hn : NoReset s) (ha : s.action = .cmd w) (hw : decode w ≠ .send) :
    ∃ t, step s = .next t.tick ∧ exec (decode w) s.tick.takeCommand = .next t := by
  obtain ⟨t, hexec⟩ := exec_answers (decode w) s.tick.takeCommand
  have hoperate : operate s = .next t := (operate_cmd ha).trans hexec
  exact ⟨t, step_of_answered hoperate ((responseDue_cmd_iff ha).2 hw) hn.rstAtResponse_eq_false, hexec⟩

/-- A run keeps the invariant (10_state.md R29). -/
theorem run_keeps_inv {s t : State} {k : Nat} (hi : Inv s) (h : run k s = .next t) : Inv t := by
  induction k generalizing s with
  | zero => cases h; exact hi
  | succ k ih =>
    obtain ⟨u, hstep, hrun⟩ := run_succ_cases h
    exact ih (stepKeepsInvariant s u hi hstep) hrun

/-- `w` is a PIX inside the display. -/
def PixInside (c : Config) (w : CmdWord) : Prop :=
  ∃ x y r g b, decode w = .pix x y r g b ∧ inDisplay c x y = true

/-- What a run of the commands `ws`, none of them SEND, leads to: the words have left the port, each slot holds the last
pixel `ws` gave its coordinate or what it held before, and every PIX inside the display has been answered OK. -/
structure HasRun (s t : State) (ws q : List CmdWord) : Prop where
  noReset : NoReset t
  accepts : t.accepts = true
  cfg : t.cfg = s.cfg
  cmdQueue : t.cmdQueue = q
  sinkPins : t.sinkPins = s.sinkPins
  given : ∀ x y p, inDisplay s.cfg x y = true → lastPixel x y ws = some p → SlotHolds t x y p
  kept : ∀ x y, inDisplay s.cfg x y = true → lastPixel x y ws = none → ∀ k < 3,
    t.frameByte (pixAddress s.cfg x y + k) = s.frameByte (pixAddress s.cfg x y + k)
  answered : (∀ w ∈ ws, PixInside s.cfg w) → t.outs = s.outs ++ List.replicate ws.length (.rsp .ok 0)

@[simp] theorem lastPixel_singleton (x y : Coord) (w : CmdWord) : lastPixel x y [w] = pixelOf x y w := rfl

theorem pixelOf_eq_some {x y : Coord} {w : CmdWord} {p : Byte × Byte × Byte} (h : pixelOf x y w = some p) :
    decode w = .pix x y p.1 p.2.1 p.2.2 := by
  unfold pixelOf at h
  split at h
  · next x' y' r g b hw =>
    split at h
    · next hsame =>
      cases h
      rw [hw, hsame.1, hsame.2]
    · cases h
  · cases h

/-- A store into the slot of a coordinate leaves its corrected channels there (42_frame_encoder.md R141). -/
theorem slotHolds_store (s : State) (x y : Coord) (p : Byte × Byte × Byte) :
    SlotHolds (s.store (pixAddress s.cfg x y) [gamma p.1, gamma p.2.1, gamma p.2.2]) x y p := by
  simp [SlotHolds, State.store_frameByte]

/-- A slot whose three bytes are kept holds what it held. -/
theorem SlotHolds.of_kept {s t : State} {x y : Coord} {p : Byte × Byte × Byte} (h : SlotHolds s x y p)
    (hcfg : t.cfg = s.cfg)
    (hkept : ∀ k < 3, t.frameByte (pixAddress s.cfg x y + k) = s.frameByte (pixAddress s.cfg x y + k)) :
    SlotHolds t x y p := by
  obtain ⟨hred, hgreen, hblue⟩ := h
  rw [SlotHolds, hcfg]
  exact ⟨(hkept 0 (by decide)).trans hred, (hkept 1 (by decide)).trans hgreen, (hkept 2 (by decide)).trans hblue⟩

theorem hasRun_nil {s : State} {q : List CmdWord} (hn : NoReset s) (hs : s.accepts = true) (hq : s.cmdQueue = q) :
    HasRun s s [] q where
  noReset := hn
  accepts := hs
  cfg := rfl
  cmdQueue := hq
  sinkPins := rfl
  given _ _ _ _ h := by simp [lastPixel] at h
  kept _ _ _ _ _ _ := rfl
  answered _ := (List.append_nil _).symm

/-- One command: it alone decides what the slots hold afterwards. -/
theorem step_hasRun {s : State} {w : CmdWord} {ws : List CmdWord} (hn : NoReset s) (hs : s.accepts = true)
    (hq : s.cmdQueue = w :: ws) (hw : decode w ≠ .send) : ∃ t, step s = .next t ∧ HasRun s t [w] ws := by
  have ha : s.action = .cmd w := (s.action_eq_cmd_iff w).2 ⟨hn.rst_eq_false, hs, ws, hq⟩
  obtain ⟨t, hstep, hexec⟩ := step_command hn ha hw
  have hs' : s.tick.takeCommand.accepts = true := hs
  obtain ⟨hport, hqueue, hpins⟩ := (exec_effect hs' hexec).port_eq hw
  have hrst : t.rstPins = s.rstPins.tail := command_rstPins hexec
  refine ⟨t.tick, hstep, ?_⟩
  exact {
    noReset := hn.of_tail_tail (congrArg List.tail hrst)
    accepts := hport.trans hs
    cfg := step_cfg hstep
    cmdQueue := hqueue.trans (congrArg List.tail hq)
    sinkPins := hpins
    given := fun x y p hin hgiven => by
      rw [pixelOf_eq_some (lastPixel_singleton x y w ▸ hgiven), exec_pix_of_inDisplay hs' hin] at hexec
      cases hexec
      exact slotHolds_store s.tick.takeCommand x y p
    kept := fun x y hin hnone k hk => by
      have hpix : ∀ v, s.action = .cmd v → pixelOf x y v = none := fun v hv => by
        cases ha.symm.trans hv
        exact hnone
      exact step_keeps_slot_byte hstep hn.takesReset_eq_false hin hpix (Nat.le_add_right ..) (Nat.add_lt_add_left hk _)
    answered := fun hall => by
      obtain ⟨x, y, r, g, b, hpix, hin⟩ := hall w (List.mem_singleton_self w)
      rw [hpix, exec_pix_of_inDisplay hs' hin] at hexec
      cases hexec
      rfl }

/-- Commands after commands: the later pixels win, and the others are kept (42_frame_encoder.md R142). -/
theorem HasRun.cons {s t u : State} {w : CmdWord} {ws q : List CmdWord} (hfirst : HasRun s t [w] (ws ++ q))
    (hrest : HasRun t u ws q) : HasRun s u (w :: ws) q where
  noReset := hrest.noReset
  accepts := hrest.accepts
  cfg := hrest.cfg.trans hfirst.cfg
  cmdQueue := hrest.cmdQueue
  sinkPins := hrest.sinkPins.trans hfirst.sinkPins
  given x y p hin hgiven := by
    have hin' : inDisplay t.cfg x y = true := hfirst.cfg ▸ hin
    rw [lastPixel, Option.or_eq_some_iff] at hgiven
    obtain hlater | ⟨hnone, hnow⟩ := hgiven
    · exact hrest.given x y p hin' hlater
    · exact (hfirst.given x y p hin hnow).of_kept hrest.cfg (hrest.kept x y hin' hnone)
  kept x y hin hnone k hk := by
    rw [lastPixel, Option.or_eq_none_iff] at hnone
    have hlater := hrest.kept x y (hfirst.cfg ▸ hin) hnone.1 k hk
    rw [hfirst.cfg] at hlater
    exact hlater.trans (hfirst.kept x y hin hnone.2 k hk)
  answered hall := by
    have hfirst' := hfirst.answered fun v hv => hall v (List.mem_singleton.1 hv ▸ List.mem_cons_self ..)
    have hrest' := hrest.answered fun v hv => hfirst.cfg ▸ hall v (List.mem_cons_of_mem _ hv)
    rw [hrest', hfirst', List.append_assoc]
    rfl

/-- Presented commands other than SEND run one after the other, with no step between them. -/
theorem run_commands {s : State} {ws q : List CmdWord} (hn : NoReset s) (hs : s.accepts = true)
    (hq : s.cmdQueue = ws ++ q) (hws : ∀ w ∈ ws, decode w ≠ .send) :
    ∃ t, run ws.length s = .next t ∧ HasRun s t ws q := by
  induction ws generalizing s with
  | nil => exact ⟨s, run_zero s, hasRun_nil hn hs hq⟩
  | cons w ws ih =>
    obtain ⟨t, hstep, hfirst⟩ := step_hasRun hn hs hq (hws w (List.mem_cons_self ..))
    obtain ⟨u, hrun, hrest⟩ := ih hfirst.noReset hfirst.accepts hfirst.cmdQueue
      fun v hv => hws v (List.mem_cons_of_mem _ hv)
    exact ⟨u, (run_succ _ hstep).trans hrun, hfirst.cons hrest⟩

/-- A Ready block whose slots hold an image holds its wire message (30_encoding.md R86). -/
theorem frameBytes_eq_wireMessage {s : State} {buf : Nat → Nat → Nat} (hheader : HeaderHeld s)
    (hslots : ∀ x y, inDisplay s.cfg x y = true → SlotHolds s x y (channels (buf x.toNat y.toNat))) :
    frameBytes s = wireMessage s.cfg buf := by
  rw [frameBytes, Config.frameLen, Config.payloadLen, map_range_slots, hheader.bytes, wireMessage]
  congr 1
  refine List.flatMap_congr fun k hk => ?_
  obtain ⟨hx, hy⟩ := slotOwner_lt (List.mem_range.1 hk)
  have hxNat : (BitVec.ofNat 16 (slotOwner s.cfg.height k).1).toNat = (slotOwner s.cfg.height k).1 :=
    Nat.mod_eq_of_lt (hx.trans s.cfg.width_lt)
  have hyNat : (BitVec.ofNat 16 (slotOwner s.cfg.height k).2).toNat = (slotOwner s.cfg.height k).2 :=
    Nat.mod_eq_of_lt (hy.trans s.cfg.height_lt)
  have hheld := hslots (.ofNat 16 (slotOwner s.cfg.height k).1) (.ofNat 16 (slotOwner s.cfg.height k).2)
    (inDisplay_iff.2 ⟨hxNat.symm ▸ hx, hyNat.symm ▸ hy⟩)
  rw [SlotHolds, pixAddress, payloadOffset, hxNat, hyNat, soff_slotOwner s.cfg.height_pos] at hheld
  obtain ⟨hred, hgreen, hblue⟩ := hheld
  rw [hred, hgreen, hblue]
  rfl

/-- A whole transmission puts out the bytes of `FRAME` as one message (30_encoding.md R87). -/
theorem offered_eq_asSent (s : State) : offered s 0 s.cfg.frameLen = asSent (frameBytes s) := by
  have hpos : 4 ≤ s.cfg.frameLen := Nat.le_add_right 4 _
  have hmark : ∀ k, (k = s.cfg.frameLen - 1) ↔ (k + 1 = s.cfg.frameLen) := fun k => by omega
  apply List.ext_getElem
  · simp [offered, asSent, frameBytes]
  · intro k hk _
    simp only [offered, asSent, frameBytes, hmark, List.getElem_map, List.getElem_range', List.getElem_zipIdx,
      List.getElem_range, List.length_map, List.length_range, Nat.zero_add, Nat.one_mul]
    rfl

/-- Settles O54: the PIX commands fill every slot, and the SEND delivers what they left. -/
theorem sendFrameDeliversImage : Obligations.SendFrameDeliversImage := by
  intro s buf q ps rest hi hn he ht hq hp hfail hcount hlast
  rw [sendFrame, List.map_append, List.append_assoc] at hq
  have hpix : ∀ w ∈ (encodeFrame s.cfg buf).map AsmLine.word, PixInside s.cfg w := fun w => decode_encodeFrame
  have hnotSend : ∀ w ∈ (encodeFrame s.cfg buf).map AsmLine.word, decode w ≠ .send := fun w hw => by
    obtain ⟨x, y, r, g, b, hdecode, -⟩ := hpix w hw
    simp [hdecode]
  have hlength : ((encodeFrame s.cfg buf).map AsmLine.word).length = s.cfg.pixels := by
    rw [List.length_map, encodeFrame_length]
  obtain ⟨t, hrun, hleft⟩ := run_commands hn (s.accepts_iff.2 ⟨he, ht⟩) hq hnotSend
  obtain ⟨hready, -⟩ := t.accepts_iff.1 hleft.accepts
  obtain ⟨u, hsend, hsent⟩ := run_send (ws := q) hleft.noReset hleft.accepts hleft.cmdQueue (decode_word .send)
    (hleft.sinkPins.trans hp) hfail (by rw [hleft.cfg, hcount]) hlast
  have hmessage : frameBytes t = wireMessage s.cfg buf := by
    rw [← hleft.cfg]
    refine frameBytes_eq_wireMessage ((run_keeps_inv hi hrun).header hready) fun x y hin => ?_
    have hin' : inDisplay s.cfg x y = true := hleft.cfg ▸ hin
    exact hleft.given x y _ hin' (lastPixel_encodeFrame buf hin')
  have hpixels : t.outs = s.outs ++ List.replicate s.cfg.pixels (.rsp .ok 0) := hlength ▸ hleft.answered hpix
  rw [hlength] at hrun
  refine ⟨u, ?_, ?_, hsent.accepts hready, hsent.cmdQueue, hsent.sinkPins, hsent.cfg.trans hleft.cfg⟩
  · rw [Nat.add_assoc, run_add _ _ hrun, Nat.add_comm 1, hsend]
  · rw [hsent.outs, offered_eq_asSent, hmessage, hpixels, List.append_assoc _ _ [_]]

end Sys2Proof.Safety

/-! PROOFS. Family 40_gamma_lut.md: the integer criterion (R106) and what follows from it, the function over the real
numbers (R105), the table (R107, R108) and GLUT (R110); and the frame of every command. -/
namespace Sys2Proof.Machine

/-! The integer criterion (40_gamma_lut.md R106). -/

/-- `g` is the rounded power of `n` by the integer criterion. Its two lines are one interval, since `2 * 0 - 1` is 0 over
the natural numbers. -/
def RoundsTo (n g : Nat) : Prop :=
  (2 * g - 1) ^ 2 * 255 ^ 3 ≤ 4 * n ^ 5 ∧ 4 * n ^ 5 < (2 * g + 1) ^ 2 * 255 ^ 3

theorem roundsTo_iff_lines {n g : Nat} :
    RoundsTo n g ↔ (g = 0 ∧ 4 * n ^ 5 < 255 ^ 3) ∨
      (1 ≤ g ∧ (2 * g - 1) ^ 2 * 255 ^ 3 ≤ 4 * n ^ 5 ∧ 4 * n ^ 5 < (2 * g + 1) ^ 2 * 255 ^ 3) := by
  cases g with
  | zero => simp [RoundsTo]
  | succ g => simp [RoundsTo]

/-- The intervals of the criterion lie in the order of their numbers. -/
theorem RoundsTo.mono {m n a b : Nat} (ha : RoundsTo m a) (hb : RoundsTo n b) (hle : m ≤ n) : a ≤ b := by
  by_contra hlt
  have hroots : 2 * b + 1 ≤ 2 * a - 1 := by omega
  have hself : 4 * n ^ 5 < 4 * n ^ 5 := calc
    4 * n ^ 5 < (2 * b + 1) ^ 2 * 255 ^ 3 := hb.2
    _ ≤ (2 * a - 1) ^ 2 * 255 ^ 3 := by gcongr
    _ ≤ 4 * m ^ 5 := ha.1
    _ ≤ 4 * n ^ 5 := by gcongr
  exact lt_irrefl _ hself

theorem RoundsTo.unique {n a b : Nat} (ha : RoundsTo n a) (hb : RoundsTo n b) : a = b :=
  le_antisymm (ha.mono hb le_rfl) (hb.mono ha le_rfl)

/-- On a tie an even number would be odd (R106 (a)). -/
theorem four_mul_pow_ne_tie (n g : Nat) : 4 * n ^ 5 ≠ (2 * g + 1) ^ 2 * 255 ^ 3 := by
  intro htie
  have heven : Even (4 * n ^ 5) := (by decide : Even 4).mul_right _
  have hodd : Odd ((2 * g + 1) ^ 2 * 255 ^ 3) := (odd_two_mul_add_one g).pow.mul (by decide)
  exact Nat.not_even_iff_odd.2 hodd (htie ▸ heven)

/-- Each of the 256 entries meets the criterion. -/
theorem roundsTo_gamma (i : Byte) : RoundsTo i.toNat (gamma i).toNat := by
  unfold RoundsTo
  revert i
  decide

/-- Settles O14: the entry meets the criterion, which no second number does. -/
theorem gammaMeetsIntegerCriterion : Obligations.GammaMeetsIntegerCriterion := by
  refine fun i g => ⟨?_, four_mul_pow_ne_tie _ g⟩
  rw [← roundsTo_iff_lines]
  exact ⟨fun h => h ▸ roundsTo_gamma i, fun h => h.unique (roundsTo_gamma i)⟩

/-! The gamma function over the real numbers (40_gamma_lut.md R105). -/

/-- `255 * (n / 255) ^ 2.5`, before rounding. -/
noncomputable def realGamma (n : Nat) : ℝ := 255 * ((n : ℝ) / 255) ^ (2.5 : ℝ)

theorem realGamma_nonneg (n : Nat) : 0 ≤ realGamma n := by
  unfold realGamma
  positivity

/-- The squaring that gives the criterion (R106, "Reason"). -/
theorem realGamma_sq (n : Nat) : (2 * realGamma n) ^ 2 * 255 ^ 3 = 4 * (n : ℝ) ^ 5 := by
  have hpower : (((n : ℝ) / 255) ^ (2.5 : ℝ)) ^ 2 = ((n : ℝ) / 255) ^ 5 := by
    rw [← Real.rpow_mul_natCast (by positivity), ← Real.rpow_natCast]
    norm_num
  rw [realGamma, mul_pow, mul_pow, hpower]
  ring

/-- The criterion decides the rounding (R106). -/
theorem RoundsTo.round_realGamma {n g : Nat} (h : RoundsTo n g) : round (realGamma n) = g := by
  obtain ⟨hlow, hhigh⟩ := h
  have hnonneg : 0 ≤ 2 * realGamma n := mul_nonneg zero_le_two (realGamma_nonneg n)
  have hlow' : ((2 * g - 1 : Nat) : ℝ) ≤ 2 * realGamma n := by
    rw [← sq_le_sq₀ (Nat.cast_nonneg _) hnonneg, ← mul_le_mul_iff_left₀ (by norm_num : (0 : ℝ) < 255 ^ 3), realGamma_sq]
    exact_mod_cast hlow
  have hhigh' : 2 * realGamma n < ((2 * g + 1 : Nat) : ℝ) := by
    rw [← sq_lt_sq₀ hnonneg (Nat.cast_nonneg _), ← mul_lt_mul_iff_left₀ (by norm_num : (0 : ℝ) < 255 ^ 3), realGamma_sq]
    exact_mod_cast hhigh
  have htwice : (2 * g : ℝ) ≤ ((2 * g - 1 : Nat) : ℝ) + 1 := by exact_mod_cast (by omega : 2 * g ≤ 2 * g - 1 + 1)
  push_cast at hhigh'
  rw [round_eq, Int.floor_eq_iff, Int.cast_natCast]
  constructor <;> linarith

theorem round_realGamma (i : Byte) : round (realGamma i.toNat) = (gamma i).toNat :=
  (roundsTo_gamma i).round_realGamma

/-- Settles O15: the entry is the rounded power, which a byte holds without the clamp. -/
theorem gammaIsRoundedPower : Obligations.GammaIsRoundedPower := by
  intro i
  change _ = max 0 (min 255 (round (realGamma i.toNat)))
  have hlt := (gamma i).isLt
  rw [round_realGamma]
  omega

/-! The table (40_gamma_lut.md R107, R108). -/

theorem gamma_mono {i j : Byte} (h : i ≤ j) : gamma i ≤ gamma j :=
  (roundsTo_gamma i).mono (roundsTo_gamma j) h

theorem gamma_eq_zero_iff (i : Byte) : gamma i = 0 ↔ i.toNat ≤ 21 := by
  constructor
  · intro hzero
    by_contra hlarge
    have hone : gamma 22 ≤ gamma i := gamma_mono (show 22 ≤ i.toNat by omega)
    rw [hzero] at hone
    exact absurd hone (by decide)
  · intro hsmall
    have hzero : gamma i ≤ gamma 21 := gamma_mono hsmall
    exact BitVec.le_zero_iff.1 hzero

/-- No entry is larger than its input, and only the ends of the table are fixed. -/
theorem gamma_le (i : Byte) : gamma i ≤ i ∧ (gamma i = i ↔ i = 0 ∨ i = 255) := by
  revert i
  decide

/-- Settles O16: the order of the table is that of the criterion's intervals. -/
theorem gammaTableProperties : Obligations.GammaTableProperties :=
  ⟨fun i => (round_realGamma i).symm, fun _ _ => gamma_mono, rfl, rfl, gamma_le, rfl, rfl⟩

theorem gammaTable_length : gammaTable.length = 256 := by
  simp only [gammaTable, List.length_append]
  rfl

theorem gammaTable_getElem {k : Nat} (hk : k < gammaTable.length) : gammaTable[k] = gamma (BitVec.ofNat 8 k) := by
  have hfits : (BitVec.ofNat 8 k).toNat = k := Nat.mod_eq_of_lt (hk.trans_eq gammaTable_length)
  rw [gamma, hfits, List.getD_eq_getElem _ _ hk]

theorem gammaTable_sorted : gammaTable.Pairwise (· ≤ ·) := by
  refine List.pairwise_iff_getElem.2 fun j k hj hk hjk => ?_
  rw [gammaTable_getElem hj, gammaTable_getElem hk]
  rw [gammaTable_length] at hj hk
  exact gamma_mono (BitVec.ofNat_le_ofNat.2 (by omega))

/-- The entry just passed, and how often an entry has differed from the one before it. -/
def countChange (p : Byte × Nat) (b : Byte) : Byte × Nat := (b, if p.1 = b then p.2 else p.2 + 1)

/-- Dropping each entry that repeats the one before it leaves the first entry and one for each change. -/
theorem length_destutter'_ne (l : List Byte) (a : Byte) (n : Nat) :
    (l.destutter' (· ≠ ·) a).length + n = (l.foldl countChange (a, n)).2 + 1 := by
  induction l generalizing a n with
  | nil => simp [Nat.add_comm]
  | cons b l ih =>
    rw [List.foldl_cons, countChange]
    by_cases hab : a = b
    · rw [List.destutter'_cons_neg l (not_not.2 hab), if_pos hab, ih, hab]
    · rw [List.destutter'_cons_pos l hab, if_neg hab, ← ih, List.length_cons]
      omega

/-- In a sorted table equal entries are neighbours, so the distinct values are counted by the changes. -/
theorem gammaTable_dedup_length : gammaTable.dedup.length = 173 := by
  have hchanges : (gammaTable.foldl countChange (0, 0)).2 = 172 := by
    simp only [gammaTable, List.foldl_append, List.foldl_cons, List.foldl_nil, countChange, BitVec.ofNat_eq_ofNat,
      BitVec.reduceEq, if_true, if_false, Nat.reduceAdd]
  calc gammaTable.dedup.length
    _ = (gammaTable.destutter (· ≠ ·)).length := by rw [gammaTable_sorted.destutter_eq_dedup]
    _ = (gammaTable.foldl countChange (0, 0)).2 + 1 := length_destutter'_ne gammaTable.tail 0 0
    _ = 173 := by rw [hchanges]

theorem gammaTable_sum : (gammaTable.map BitVec.toNat).sum = 18701 := by
  simp only [gammaTable, List.map_append, List.sum_append]
  decide

theorem gammaTable_xor : gammaTable.foldl (· ^^^ ·) 0 = 125 := by
  simp only [gammaTable, List.foldl_append, List.foldl_cons, List.foldl_nil, BitVec.ofNat_eq_ofNat, BitVec.reduceXOr]

/-- Settles O17: the table row by row, its distinct values by its changes, and its zeros by its order. -/
theorem gammaTableChecks : Obligations.GammaTableChecks :=
  ⟨gammaTable_length, gammaTable_sum, gammaTable_xor, gammaTable_dedup_length, gamma_eq_zero_iff, rfl, rfl, rfl, rfl⟩

/-! GLUT (40_gamma_lut.md R110). -/

/-- Settles O19: the answer is the entry, and the corner cases are entries of the table. -/
theorem glutAnswersTableEntry : Obligations.GlutAnswersTableEntry := by
  refine ⟨fun w hop => ?_, fun i s he ht => ?_, fun i => (gamma_eq_zero_iff i).2, rfl, by decide, rfl⟩
  · obtain ⟨-, -, -, hglut, -⟩ := decoderFollowsOpcodeMap w
    exact hglut hop
  · rw [exec_glut (s.accepts_iff.2 ⟨he, ht⟩), BitVec.ofNat_toNat]
    rfl

/-! The frame of every command (42_frame_encoder.md sections 2 to 5). -/

/-- No command uses up an input or draws a free value. -/
theorem CommandEffect.inputs_eq {i : Instr} {s t : State} (h : CommandEffect i s t) :
    t.idxDraw = s.idxDraw ∧ t.cmdQueue = s.cmdQueue ∧ t.sinkPins = s.sinkPins ∧ t.rstPins = s.rstPins := by
  cases h <;> exact ⟨rfl, rfl, rfl, rfl⟩

/-- Settles O26: a command that waits changes nothing, and an accepted one is framed by its effect. -/
theorem commandFrame : Obligations.CommandFrame := by
  intro i s t h
  obtain ⟨-, rfl⟩ | ⟨-, heffect⟩ := exec_cases h
  · simp
  · obtain ⟨hidx, hqueue, hsink, hrst⟩ := heffect.inputs_eq
    refine ⟨heffect.cfg_eq, heffect.encState_eq, heffect.frameDraw_eq, hidx, hqueue, hsink, hrst, ?_, ?_⟩
    · intro hsend
      by_contra hmoved
      exact hsend (heffect.send_of_transmitter_ne (not_and_or.1 hmoved)).1
    · intro a houtside
      by_contra hwritten
      obtain ⟨x, y, r, g, b, hpix, -, hfrom, hto⟩ := heffect.slot_of_frameByte_ne hwritten
      have hout := houtside x y r g b hpix
      omega

end Sys2Proof.Machine

/-! PROOFS. Family 41_serpentine_mapper.md: the offset function (R120), its bounds (R121, R123), its inverse (R124), its
direction (R125), and SOFF (R126). -/
namespace Sys2Proof.Machine

/-! The two directions of a column, and the offset by direction (41_serpentine_mapper.md R120, R122). -/

theorem alongColumn_of_even {x : Nat} (hx : x % 2 = 0) (h y : Nat) : alongColumn h x y = y :=
  if_pos hx

theorem alongColumn_of_odd {x : Nat} (hx : x % 2 = 1) (h y : Nat) : alongColumn h x y = h - 1 - y :=
  if_neg (by omega)

theorem soff_of_even {x : Nat} (hx : x % 2 = 0) (h y : Nat) : soff h x y = 3 * (x * h + y) := by
  rw [soff, alongColumn_of_even hx]

theorem soff_of_odd {x : Nat} (hx : x % 2 = 1) (h y : Nat) : soff h x y = 3 * (x * h + (h - 1 - y)) := by
  rw [soff, alongColumn_of_odd hx]

/-- The one mapping policy of 00_scope.md R10 is the serpentine. -/
theorem payloadOffset_eq_soff (c : Config) (x y : Coord) : payloadOffset c x y = soff c.height x.toNat y.toNat := rfl

/-- Bit 0 of the coordinate field picks the direction (41_serpentine_mapper.md R120, R122). -/
theorem alongColumn_eq_ite_getLsbD (x : Coord) (h y : Nat) :
    alongColumn h x.toNat y = if x.getLsbD 0 then h - 1 - y else y := by
  have hbit : x.getLsbD 0 = decide (x.toNat % 2 = 1) := Nat.testBit_zero x.toNat
  obtain hx | hx := Nat.mod_two_eq_zero_or_one x.toNat
  · rw [alongColumn_of_even hx, hbit, hx]
    rfl
  · rw [alongColumn_of_odd hx, hbit, hx]
    rfl

/-- Slots are numbered below `W * H` (41_serpentine_mapper.md R121). -/
theorem slotIndex_lt {w h x y : Nat} (hx : x < w) (hy : y < h) : x * h + alongColumn h x y < w * h := by
  calc x * h + alongColumn h x y
    _ < x * h + h := Nat.add_lt_add_left (alongColumn_lt hy) _
    _ = (x + 1) * h := (Nat.add_one_mul x h).symm
    _ ≤ w * h := Nat.mul_le_mul_right h hx

/-- Settles O10: the slot index is below `N`, and the offset is three times it. -/
theorem offsetFitsSixteenBits : Obligations.OffsetFitsSixteenBits := by
  intro c x y hin
  obtain ⟨hx, hy⟩ := inDisplay_iff.1 hin
  have halong := alongColumn_lt (x := x.toNat) hy
  have hindex : x.toNat * c.height + alongColumn c.height x.toNat y.toNat < c.pixels := slotIndex_lt hx hy
  have hpixels := c.pixels_le
  have hle := payloadOffset_le hin
  have hdata : (BitVec.ofNat 16 (payloadOffset c x y)).toNat = payloadOffset c x y := Nat.mod_eq_of_lt (by omega)
  have hoffset : payloadOffset c x y ≤ 3 * (c.pixels - 1) := by
    rw [payloadOffset_eq_soff, soff]
    omega
  exact ⟨by omega, by omega, by omega, hoffset, hle, Nat.dvd_mul_right 3 _, hdata⟩

/-- Settles O11: the slot ends at or before `FLEN`, so a store of three bytes there is no fault. -/
theorem pixelSlotLiesInPayload : Obligations.PixelSlotLiesInPayload := by
  intro c x y hin
  have hslot := pixAddress_add_le hin
  have hpos := c.pixels_pos
  have hlast : 4 + 3 * (c.pixels - 1) + 2 = c.frameLen - 1 := by
    rw [Config.frameLen, Config.payloadLen]
    omega
  refine ⟨Nat.le_add_right 4 _, by omega, hlast, fun s hcfg bs hlen => ⟨_, memWrite_of_le ?_⟩⟩
  rw [hcfg, hlen]
  exact hslot

/-- Settles O12: `slotOwner` inverts the slot index both ways, so coordinates that share a byte have one slot. -/
theorem serpentineIsBijection : Obligations.SerpentineIsBijection := by
  refine fun c => ⟨fun x y hx hy => ?_, fun k hk => ?_, fun k => rfl, fun x y x' y' hin hin' a => ?_⟩
  · exact ⟨_, slotIndex_lt hx hy, rfl, slotOwner_slotIndex hy⟩
  · obtain ⟨hcolumn, hrow⟩ := slotOwner_lt hk
    exact ⟨hcolumn, hrow, soff_slotOwner c.height_pos⟩
  · exact coord_eq_of_shared_byte hin hin'

/-! Direction and adjacency (41_serpentine_mapper.md R125). -/

theorem soff_succ_of_even {x : Nat} (hx : x % 2 = 0) (h y : Nat) : soff h x (y + 1) = soff h x y + 3 := by
  rw [soff_of_even hx, soff_of_even hx]
  omega

theorem soff_succ_of_odd {h x y : Nat} (hx : x % 2 = 1) (hy : y + 1 < h) : soff h x y = soff h x (y + 1) + 3 := by
  rw [soff_of_odd hx, soff_of_odd hx]
  omega

/-- Column `x` owns the offsets from `3 * x * H` to `3 * (x * H + H - 1)`. -/
theorem soff_bounds {h y : Nat} (x : Nat) (hy : y < h) : 3 * x * h ≤ soff h x y ∧ soff h x y ≤ 3 * (x * h + h - 1) := by
  have halong := alongColumn_lt (x := x) hy
  rw [soff, Nat.mul_assoc]
  omega

/-- An even column ends at its bottom row, where the next one starts. -/
theorem soff_bottom_succ_of_even {h x : Nat} (hh : 1 ≤ h) (hx : x % 2 = 0) :
    soff h (x + 1) (h - 1) = soff h x (h - 1) + 3 := by
  rw [soff_of_even hx, soff_of_odd (by omega), Nat.add_one_mul x h]
  omega

/-- An odd column ends at its top row, where the next one starts. -/
theorem soff_top_succ_of_odd {h x : Nat} (hh : 1 ≤ h) (hx : x % 2 = 1) : soff h (x + 1) 0 = soff h x 0 + 3 := by
  rw [soff_of_odd hx, soff_of_even (by omega), Nat.add_one_mul x h]
  omega

/-- Settles O13: the rows by direction, the range of a column, and the joint between columns; with `H = 1` the top row
is the bottom row. -/
theorem serpentineDirection : Obligations.SerpentineDirection := by
  refine fun h x hh => ⟨fun htwo hx => ?_, fun htwo hx => ?_, ?_, fun y _ hx => soff_succ_of_even hx h y,
    fun y hy hx => soff_succ_of_odd hx hy, fun y => soff_bounds x, soff_bottom_succ_of_even hh, soff_top_succ_of_odd hh⟩
  · rw [soff_of_even hx, soff_of_even hx]
    omega
  · rw [soff_of_odd hx, soff_of_odd hx]
    omega
  · rintro rfl
    have hrange := soff_bounds x Nat.one_pos
    exact ⟨by omega, rfl⟩

/-! The two users of the offset function: SOFF (41_serpentine_mapper.md R126) and PIX (42_frame_encoder.md R140). -/

/-- Settles O9: bit 0 of `x` picks the direction, and outside the display SOFF and PIX only raise the error. -/
theorem offsetIsSerpentine : Obligations.OffsetIsSerpentine := by
  refine ⟨fun c x y _ _ => ⟨?_, rfl⟩, fun c c' x y hheight => ?_, fun s x y r g b he ht hout => ?_⟩
  · rw [payloadOffset_eq_soff, soff, alongColumn_eq_ite_getLsbD]
  · rw [payloadOffset_eq_soff, payloadOffset_eq_soff, hheight]
  · have hs := s.accepts_iff.2 ⟨he, ht⟩
    have hin : inDisplay s.cfg x y = false := not_inDisplay_iff.2 (by omega)
    exact ⟨exec_soff_of_not_inDisplay hs hin, exec_pix_of_not_inDisplay hs hin r g b⟩

/-- The corner `(0, 0)` of every display has offset 0 (41_serpentine_mapper.md R126). -/
theorem soff_zero_zero (h : Nat) : soff h 0 0 = 0 := by
  rw [soff_of_even (Nat.zero_mod 2), Nat.zero_mul]

/-- Settles O20: the answer by the comparison of R79; the examples are evaluated. -/
theorem soffAnswersOffset : Obligations.SoffAnswersOffset := by
  refine ⟨fun w hop => ?_, fun x y s he ht => ?_, soff_zero_zero, by decide, rfl, rfl, rfl⟩
  · obtain ⟨-, -, -, -, hsoff, -⟩ := decoderFollowsOpcodeMap w
    exact hsoff hop
  · have hs := s.accepts_iff.2 ⟨he, ht⟩
    split
    · next hout => exact exec_soff_of_not_inDisplay hs (not_inDisplay_iff.2 hout)
    · next hin => exact exec_soff_of_inDisplay hs (inDisplay_iff.2 (by omega))

end Sys2Proof.Machine

/-! PROOFS. Family 42_frame_encoder.md: INIT (R135), NOP (R138), PIX (R140 to R143), SEND and its transmission (R145,
R151, R152), the reserved opcodes (R155), and the step relation (R161). -/
namespace Sys2Proof.Machine

/-! NOP and the reserved opcodes (42_frame_encoder.md R138, R155). -/

/-- Settles O18: opcode 0 is NOP, and an accepted NOP only answers. -/
theorem nopAnswersOk : Obligations.NopAnswersOk := by
  refine ⟨fun w hop => ?_, by decide, fun s he ht => exec_nop (s.accepts_iff.2 ⟨he, ht⟩)⟩
  obtain ⟨hnop, -⟩ := decoderFollowsOpcodeMap w
  exact hnop hop

/-- The reserved commands are the eleven of R155. -/
theorem reserved_iff_mem (i : Instr) :
    i.reserved = true ↔
      i ∈ [Instr.rsvd5, .rsvd6, .rsvd7, .rsvd8, .rsvd9, .rsvdA, .rsvdB, .rsvdC, .rsvdD, .rsvdE, .rsvdF] := by
  cases i <;> simp [Instr.reserved]

/-- A command is reserved exactly when its opcode is 5 or more (30_encoding.md R83). -/
theorem reserved_iff_five_le_opcode (i : Instr) : i.reserved = true ↔ 5 ≤ (opcode i).toNat := by
  cases i <;> simp [Instr.reserved, opcode]

/-- Settles O24: opcodes 5 and up decode to the reserved commands, which have one meaning. -/
theorem reservedOpcodesAnswerIllegalCommand : Obligations.ReservedOpcodesAnswerIllegalCommand := by
  refine ⟨fun w hop => ?_, fun i hi s he ht => ?_, by decide, by decide⟩
  · rw [← reserved_iff_mem, reserved_iff_five_le_opcode, opcode_decode]
    exact hop
  · exact exec_reserved (s.accepts_iff.2 ⟨he, ht⟩) ((reserved_iff_mem i).2 hi)

/-! PIX (42_frame_encoder.md R140 to R142). -/

/-- A store changes no byte outside the addresses it writes. -/
theorem State.store_frameByte_of_outside {s : State} {a b : Nat} {bs : List Byte} (h : b < a ∨ a + bs.length ≤ b) :
    (s.store a bs).frameByte b = s.frameByte b := by
  rw [State.store_frameByte, if_neg (by omega)]

/-- The effect of PIX in the display, byte by byte: its slot holds the corrected channels, and every other byte of
`FRAME` reads as before (42_frame_encoder.md R140). -/
theorem exec_pix_frameByte {x y : Coord} {s : State} (hs : s.accepts = true) (hin : inDisplay s.cfg x y = true)
    (r g b : Byte) :
    ∃ t, exec (.pix x y r g b) s = .next t ∧ t = { s with frame := t.frame, outs := s.outs ++ [.rsp .ok 0] } ∧
      t.frameByte (pixAddress s.cfg x y) = gamma r ∧ t.frameByte (pixAddress s.cfg x y + 1) = gamma g ∧
      t.frameByte (pixAddress s.cfg x y + 2) = gamma b ∧
      ∀ a, a < pixAddress s.cfg x y ∨ pixAddress s.cfg x y + 3 ≤ a → t.frameByte a = s.frameByte a := by
  obtain ⟨hred, hgreen, hblue⟩ := Safety.slotHolds_store s x y (r, g, b)
  exact ⟨_, exec_pix_of_inDisplay hs hin r g b, rfl, hred, hgreen, hblue,
    fun a ha => (State.respond_frameByte ..).trans (State.store_frameByte_of_outside ha)⟩

/-- Settles O21: outside the display PIX only raises CoordError, and inside it stores one slot of the payload. -/
theorem pixCorrectsAndStoresOnePixel : Obligations.PixCorrectsAndStoresOnePixel := by
  refine ⟨fun w hop => ?_, fun x y r g b s he ht => ?_, by decide, rfl, rfl, rfl⟩
  · obtain ⟨-, hpix, -⟩ := decoderFollowsOpcodeMap w
    exact hpix hop
  · have hs := s.accepts_iff.2 ⟨he, ht⟩
    refine ⟨fun hout => exec_pix_of_not_inDisplay hs (not_inDisplay_iff.2 hout) r g b, fun hx hy => ?_⟩
    have hin := inDisplay_iff.2 ⟨hx, hy⟩
    have hslot := pixAddress_add_le hin
    obtain ⟨t, hexec, hframe, hbytes⟩ := exec_pix_frameByte hs hin r g b
    exact ⟨t, hexec, hframe, Nat.le_add_right 4 _, by omega, rfl, hbytes⟩

/-- Settles O22: each of the three bytes is the corrected channel of its own lane. -/
theorem pixLanesAreIndependent : Obligations.PixLanesAreIndependent := by
  intro x y r g b r' g' b' s he ht hx hy
  have hs := s.accepts_iff.2 ⟨he, ht⟩
  have hin := inDisplay_iff.2 ⟨hx, hy⟩
  obtain ⟨t, hexec, -, hred, hgreen, hblue, hkept⟩ := exec_pix_frameByte hs hin r g b
  obtain ⟨t', hexec', -, hred', hgreen', hblue', hkept'⟩ := exec_pix_frameByte hs hin r' g' b'
  refine ⟨t, t', hexec, hexec', hred, hgreen, hblue, ?_, ?_, ?_, fun a ha => (hkept a ha).trans (hkept' a ha).symm⟩
  · rintro rfl
    exact hred.trans hred'.symm
  · rintro rfl
    exact hgreen.trans hgreen'.symm
  · rintro rfl
    exact hblue.trans hblue'.symm

/-- Writes of consecutive bytes at disjoint addresses commute, as data. -/
theorem Memory.writeAll_comm {m : Memory} (hm : Memory.wf m) {a b : Nat} {bs cs : List Byte}
    (hdisjoint : ∀ k, a ≤ k → k < a + bs.length → b ≤ k → ¬ k < b + cs.length) :
    Memory.writeAll (Memory.writeAll m a bs) b cs = Memory.writeAll (Memory.writeAll m b cs) a bs := by
  refine Memory.ext_of_read (Memory.wf_writeAll cs (Memory.wf_writeAll bs hm a) b)
    (Memory.wf_writeAll bs (Memory.wf_writeAll cs hm b) a) fun k => ?_
  simp only [Memory.read_writeAll]
  by_cases hb : b ≤ k ∧ k < b + cs.length
  · have ha : ¬(a ≤ k ∧ k < a + bs.length) := fun ha => hdisjoint k ha.1 ha.2 hb.1 hb.2
    rw [if_pos hb, if_neg ha, if_pos hb]
  · rw [if_neg hb, if_neg hb]

/-- Settles O29: different coordinates have disjoint slots, and stores of disjoint slots commute. -/
theorem pixOrderIsImmaterial : Obligations.PixOrderIsImmaterial := by
  intro x y x' y' r g b r' g' b' s hi hs hin hin' hne
  have hframe := Memory.writeAll_comm (a := pixAddress s.cfg x y) (b := pixAddress s.cfg x' y')
    (bs := [gamma r, gamma g, gamma b]) (cs := [gamma r', gamma g', gamma b']) hi.canonical
    fun k hlo hhi hlo' hhi' => hne (coord_eq_of_shared_byte hin hin' hlo hhi hlo' hhi')
  refine ⟨_, _, _, exec_pix_of_inDisplay hs hin r g b, exec_pix_of_inDisplay (by exact hs) (by exact hin') r' g' b',
    exec_pix_of_inDisplay hs hin' r' g' b', ?_⟩
  rw [exec_pix_of_inDisplay (by exact hs) (by exact hin)]
  simp only [State.store, State.respond, hframe]

end Sys2Proof.Machine

namespace Sys2Proof.Safety

open Sys2Proof.Machine

/-! INIT (42_frame_encoder.md R135). -/

/-- Settles O32: INIT is the step of an Uninitialized block, and a Ready block stays Ready until a reset. -/
theorem initWritesHeader : Obligations.InitWritesHeader := by
  refine ⟨fun s hrst he => ?_, fun s t he h => ⟨fun ha => ?_, fun hr => step_keeps_ready h hr he⟩, ?_, ?_, ?_, ?_, ?_⟩
  · obtain ⟨h0, h1, h2, h3⟩ := headerHeld_store s.tick
    refine ⟨_, step_of_init (s.action_eq_init_iff.2 ⟨hrst, he⟩), rfl, h0, h1, ?_,
      fun a ha => State.store_frameByte_of_outside (.inr ha)⟩
    rw [State.becomeReady_frameByte, State.becomeReady_frameByte, Nat.mul_assoc]
    exact (congrArg₂ (· * 256 + ·) h2 h3).trans (Nat.div_add_mod' s.cfg.payloadLen 256)
  · obtain ⟨-, hinit⟩ := s.action_eq_init_iff.1 ha
    simp [hinit] at he
  all_goals
    intro c hwidth hheight
    rw [headerBytes, Config.payloadLen, Config.pixels, hwidth, hheight]
    rfl

/-! The placed command (42_frame_encoder.md R161, 70_reset_and_hazards.md R198). -/

/-- The state in which a word is presented: Ready and idle, with that word first and no reset at the two coming edges;
INIT may have left `FRAME` as `m` (log 11). -/
def presenting (s : State) (m : Memory) (w : CmdWord) : State :=
  { s with
    encState := .ready
    frame := m
    txActive := false
    rstPins := false :: false :: s.rstPins
    cmdQueue := w :: s.cmdQueue }

theorem presentCommand_eq (s : State) (w : CmdWord) : ∃ m, presentCommand s w = presenting s m w := by
  rw [presentCommand]
  cases he : s.encState with
  | uninitialized =>
    rw [if_pos rfl, initStep_eq]
    exact ⟨_, rfl⟩
  | ready =>
    rw [if_neg (by simp)]
    exact ⟨s.frame, by rw [presenting, ← he]⟩

theorem wellFormed_eq_true (i : Instr) : i.wellFormed = true := by
  cases i <;> rfl

/-- A number read as a command is the word the block is presented with (log 11, log 13). -/
theorem decode_of_decodeTableWord {nbits w : Nat} {i : Instr} (h : decodeTableWord nbits w = some i) :
    decode (BitVec.ofNat 68 (w % 2 ^ nbits)) = i := by
  unfold decodeTableWord at h
  split at h
  · exact Option.some.inj h
  · cases h

/-- Settles O31: the presented word is what the step runs, and no reset comes at its response's edge. -/
theorem placedCommandRunsNext : Obligations.PlacedCommandRunsNext := by
  intro s nbits w i _ _ hi
  obtain ⟨m, hplaced⟩ := presentCommand_eq s (BitVec.ofNat 68 (w % 2 ^ nbits))
  obtain ⟨t, hexec, hsend, hanswered, -⟩ := stepRunsPresentedCommand (presenting s m _) _ s.cmdQueue i rfl rfl rfl rfl
    (decode_of_decodeTableWord hi) (wellFormed_eq_true i)
  rw [State.withFetchWord, hplaced]
  exact ⟨_, t, by rfl, by rfl, by rfl, by rfl, by rfl, hexec, hsend, fun hne => hanswered hne rfl⟩

/-! The step relation (42_frame_encoder.md R161). -/

/-- Settles O41: the operation of every action answers; a TX step does because `TX_IDX` lies in the frame buffer. -/
theorem stepAlwaysGoesOn : Obligations.StepAlwaysGoesOn := by
  intro s hi
  have hoperate : ∃ u, operate s = .next u := by
    cases ha : s.action with
    | reset | idle => exact ⟨_, by rw [operate, ha]⟩
    | init => exact ⟨_, by rw [operate, ha]; exact initStep_eq s.tick⟩
    | tx =>
      obtain ⟨-, -, ht⟩ := s.action_eq_tx_iff.1 ha
      obtain ⟨u, heffect⟩ := txStep_effect (s := s.tick) (hi.sending_inside ht)
      exact ⟨u, operate_tx ha heffect⟩
    | cmd w =>
      obtain ⟨u, hexec⟩ := exec_answers (decode w) s.tick.takeCommand
      exact ⟨u, (operate_cmd ha).trans hexec⟩
  obtain ⟨u, hu⟩ := hoperate
  exact ⟨_, step_of_operate hu⟩

/-- What R161 allows for a label, and, where a step has none, that nothing happens. -/
def FollowsRel (c : Config) (v : View) : Option Label → List Output → View → Prop
  | some l, evs, v' => StepRel c v l evs v'
  | none, evs, v' => evs = [] ∧ v' = v

/-- A step of the relation between the views two states have. -/
theorem StepRel.of_views {c : Config} {v u v' u' : View} {l : Label} {evs : List Output} (h : StepRel c u l evs u')
    (hv : v = u) (hv' : v' = u') : StepRel c v l evs v' := by
  rwa [hv, hv']

theorem view_idle {s : State} {e : EncState} {f : Nat → Byte} (he : s.encState = e) (ht : s.txActive = false)
    (hf : s.frameByte = f) : view s = ⟨e, f, none⟩ := by
  simp [view, he, ht, hf]

theorem view_sending {s : State} {k : Nat} (he : s.encState = .ready) (ht : s.txActive = true)
    (hk : s.txIdx.toNat = k) : view s = ⟨.ready, s.frameByte, some k⟩ := by
  simp [view, he, ht, hk]

/-- A store is the update `F[a..a+n-1 := bs]` of R161. -/
theorem store_frameByte_eq_withBytes (s : State) (a : Nat) (bs : List Byte) :
    (s.store a bs).frameByte = withBytes s.frameByte a bs :=
  funext (s.store_frameByte a bs)

/-- An accepted command is a step `cmd(c)` of the relation. -/
theorem command_stepRel {s t : State} {w : CmdWord} (hs : s.accepts = true) (h : exec (decode w) s = .next t) :
    ∃ evs, t.outs = s.outs ++ evs ∧ StepRel s.cfg (view s) (.cmd w) evs (view t) := by
  obtain ⟨he, ht⟩ := s.accepts_iff.1 hs
  have hview := view_idle he ht rfl
  cases hw : decode w with
  | nop =>
    rw [hw, exec_nop hs] at h
    cases h
    exact ⟨_, rfl, .of_views (.nop _ w hw) hview hview⟩
  | pix x y r g b =>
    rw [hw] at h
    cases hin : inDisplay s.cfg x y with
    | true =>
      obtain ⟨hx, hy⟩ := inDisplay_iff.1 hin
      rw [exec_pix_of_inDisplay hs hin] at h
      cases h
      exact ⟨_, rfl, .of_views (.pixInside _ w x y r g b hw hx hy) hview
        (view_idle he ht (store_frameByte_eq_withBytes s _ _))⟩
    | false =>
      rw [exec_pix_of_not_inDisplay hs hin] at h
      cases h
      exact ⟨_, rfl, .of_views (.pixOutside _ w x y r g b hw (by simp [← inDisplay_iff, hin])) hview hview⟩
  | send =>
    rw [hw, exec_send hs] at h
    cases h
    exact ⟨[], (List.append_nil _).symm, .of_views (.send _ w hw) hview (view_sending he rfl rfl)⟩
  | glut k =>
    rw [hw, exec_glut hs, ← BitVec.ofNat_toNat] at h
    cases h
    exact ⟨_, rfl, .of_views (.glut _ w k hw) hview hview⟩
  | soff x y =>
    rw [hw] at h
    cases hin : inDisplay s.cfg x y with
    | true =>
      obtain ⟨hx, hy⟩ := inDisplay_iff.1 hin
      rw [exec_soff_of_inDisplay hs hin] at h
      cases h
      exact ⟨_, rfl, .of_views (.soffInside _ w x y hw hx hy) hview hview⟩
    | false =>
      rw [exec_soff_of_not_inDisplay hs hin] at h
      cases h
      exact ⟨_, rfl, .of_views (.soffOutside _ w x y hw (by simp [← inDisplay_iff, hin])) hview hview⟩
  | rsvd5 | rsvd6 | rsvd7 | rsvd8 | rsvd9 | rsvdA | rsvdB | rsvdC | rsvdD | rsvdE | rsvdF =>
    have hres : (decode w).reserved = true := by rw [hw]; rfl
    rw [exec_reserved hs hres] at h
    cases h
    rw [reserved_iff_five_le_opcode, opcode_decode] at hres
    exact ⟨_, rfl, .of_views (.reserved _ w hres) hview hview⟩

/-- A TX step is a step `tx_accept` or `tx_fail` of the relation, or waits for the sink. -/
theorem tx_followsRel {s u : State} (ha : s.action = .tx) (h : TxEffect s.tick u) :
    ∃ evs, u.outs = s.outs ++ evs ∧ FollowsRel s.cfg (view s) (label s) evs (view u) := by
  obtain ⟨-, he, ht⟩ := s.action_eq_tx_iff.1 ha
  have hview := view_sending he ht rfl
  cases h with
  | silent hp =>
    have hl : label s = none := by simp [label, ha, sinkAnswer, show s.sinkPins = [] from hp]
    exact ⟨[], (List.append_nil _).symm, hl ▸ ⟨rfl, rfl⟩⟩
  | waited p ps hp hans =>
    have hl : label s = none := by simp [label, ha, sinkAnswer, show s.sinkPins = p :: ps from hp, hans]
    exact ⟨[], (List.append_nil _).symm, hl ▸ ⟨rfl, rfl⟩⟩
  | failed p ps hp hans =>
    have hl : label s = some .txFail := by simp [label, ha, sinkAnswer, show s.sinkPins = p :: ps from hp, hans]
    refine ⟨_, rfl, ?_⟩
    rw [hl]
    exact .of_views (.fail _ _) hview (view_idle he rfl rfl)
  | acceptedLast p ps hp hans hlast =>
    have hl : label s = some .txAccept := by simp [label, ha, sinkAnswer, show s.sinkPins = p :: ps from hp, hans]
    refine ⟨_, List.append_assoc .., ?_⟩
    rw [hl]
    exact .of_views (.acceptLast _ _ hlast) hview (view_idle he rfl rfl)
  | acceptedMore p ps hp hans hmore =>
    have hl : label s = some .txAccept := by simp [label, ha, sinkAnswer, show s.sinkPins = p :: ps from hp, hans]
    refine ⟨_, rfl, ?_⟩
    rw [hl]
    exact .of_views (.acceptMore _ _ hmore) hview (view_sending he ht (txIdx_succ_toNat hmore))

/-- INIT is a step of the relation, since an Uninitialized block sends nothing (10_state.md R29). -/
theorem init_stepRel {s t : State} (hi : Inv s) (he : s.encState = .uninitialized) (h : initStep s = .next t) :
    t.outs = s.outs ∧ StepRel s.cfg (view s) .init [] (view t) := by
  have ht : s.txActive = false := Bool.eq_false_iff.2 fun hsending => by simp [hi.sending_ready hsending] at he
  rw [initStep_eq, headerBytes_eq_headerOf] at h
  cases h
  exact ⟨rfl, .of_views (.init _) (view_idle he ht rfl) (view_idle rfl ht (store_frameByte_eq_withBytes s _ _))⟩

/-- The operation of a step follows the relation, or the block waits. -/
theorem operate_followsRel {s u : State} (hi : Inv s) (h : operate s = .next u) :
    ∃ evs, u.outs = s.outs ++ evs ∧ FollowsRel s.cfg (view s) (label s) evs (view u) := by
  rcases operate_cases h with ⟨ha, rfl⟩ | ⟨ha, hinit⟩ | ⟨ha, htx⟩ | ⟨w, ha, hexec⟩ | ⟨ha, rfl⟩
  · have hl : label s = some .reset := by simp [label, ha]
    exact ⟨[], (List.append_nil _).symm, hl ▸ .reset _ _⟩
  · have hl : label s = some .init := by simp [label, ha]
    obtain ⟨-, he⟩ := s.action_eq_init_iff.1 ha
    obtain ⟨houts, hrel⟩ := init_stepRel hi.tick he hinit
    exact ⟨[], houts.trans (List.append_nil _).symm, hl ▸ hrel⟩
  · exact tx_followsRel ha htx
  · have hl : label s = some (.cmd w) := by simp [label, ha]
    rw [hl]
    exact command_stepRel (s := s.tick.takeCommand) (State.takeCommand_accepts_of_action ha) hexec
  · have hl : label s = none := by simp [label, ha]
    exact ⟨[], (List.append_nil _).symm, hl ▸ ⟨rfl, rfl⟩⟩

/-- Settles O46: the operation follows the relation, and a reset at the response's edge is the relation's reset. -/
theorem stepFollowsStepRelation : Obligations.StepFollowsStepRelation := by
  intro s t hi h
  obtain ⟨u, _, hu, -, -, -, hedge⟩ := step_edge_cases h
  obtain ⟨evs, houts, hrel⟩ := operate_followsRel hi hu
  refine ⟨evs, view u, ?_, ?_⟩
  · cases hl : label s <;> rwa [hl] at hrel
  · rcases hedge with ⟨hd, rfl⟩ | ⟨hd, hn, rfl⟩ | ⟨hd, hr, rfl⟩
    · rw [if_neg (by simp [hd])]
      exact ⟨houts, rfl⟩
    · rw [if_neg (by simp [hn])]
      exact ⟨houts, rfl⟩
    · rw [if_pos (by simp [hd, hr])]
      exact ⟨withdrawn_outs houts, .reset _ _⟩

/-! A sequence of commands, and a full encode of one colour (42_frame_encoder.md R142, R143). -/

/-- Settles O49: what a run of commands leaves in the slots. -/
theorem frameHoldsLastPixels : Obligations.FrameHoldsLastPixels := by
  intro s ws q hn hs hq hws
  obtain ⟨t, hrun, hleft⟩ := run_commands hn hs hq hws
  exact ⟨t, hrun, hleft.accepts, hleft.cfg, hleft.cmdQueue,
    fun x y hin => ⟨fun p => hleft.given x y p hin, hleft.kept x y hin⟩⟩

/-- Every byte of the payload lies in the slot of a coordinate of the display (41_serpentine_mapper.md R124). -/
theorem exists_slot_of_payload {c : Config} {a : Nat} (hpayload : 4 ≤ a) (hlt : a < c.frameLen) :
    ∃ x y k, inDisplay c x y = true ∧ k < 3 ∧ a = pixAddress c x y + k := by
  obtain ⟨k, j, hj, rfl⟩ : ∃ k j, j < 3 ∧ a = 4 + 3 * k + j :=
    ⟨(a - 4) / 3, (a - 4) % 3, Nat.mod_lt _ (by decide), by omega⟩
  have hk : k < c.pixels := by
    simp only [Config.frameLen, Config.payloadLen] at hlt
    omega
  obtain ⟨hx, hy⟩ := slotOwner_lt hk
  have hxNat := Nat.mod_eq_of_lt (hx.trans c.width_lt)
  have hyNat := Nat.mod_eq_of_lt (hy.trans c.height_lt)
  refine ⟨.ofNat 16 (slotOwner c.height k).1, .ofNat 16 (slotOwner c.height k).2, j, inDisplay_iff.2 ?_, hj, ?_⟩
  · rw [BitVec.toNat_ofNat, BitVec.toNat_ofNat, hxNat, hyNat]
    exact ⟨hx, hy⟩
  · rw [pixAddress, payloadOffset_eq_soff, BitVec.toNat_ofNat, BitVec.toNat_ofNat, hxNat, hyNat,
      soff_slotOwner c.height_pos]

/-- The three bytes of a grey pixel are alike. -/
theorem SlotHolds.frameByte_of_grey {s : State} {x y : Coord} {v : Byte} (h : SlotHolds s x y (v, v, v)) :
    ∀ k < 3, s.frameByte (pixAddress s.cfg x y + k) = gamma v := by
  obtain ⟨hred, hgreen, hblue⟩ := h
  intro k hk
  match k, hk with
  | 0, _ => exact hred
  | 1, _ => exact hgreen
  | 2, _ => exact hblue

/-- Settles O50: every byte of the payload lies in a slot, and GAMMA keeps 0 and 255. -/
theorem blackAndWhiteFrames : Obligations.BlackAndWhiteFrames := by
  intro s ws q v hn hs hq hws hv hall
  obtain ⟨t, hrun, hleft⟩ := run_commands hn hs hq hws
  have hgamma : gamma v = v := by rcases hv with rfl | rfl <;> rfl
  refine ⟨t, hrun, hleft.accepts, fun a hpayload hlt => ?_⟩
  obtain ⟨x, y, k, hin, hk, rfl⟩ := exists_slot_of_payload hpayload hlt
  have hbyte := (hleft.given x y _ hin (hall x y hin)).frameByte_of_grey k hk
  rwa [hleft.cfg, hgamma] at hbyte

/-! A SEND to its end (42_frame_encoder.md R151, R152). -/

theorem HasSent.frameByte {s t : State} {evs : List Output} {rest : List SinkPins} (h : HasSent s t evs rest)
    (a : Nat) : t.frameByte a = s.frameByte a := by
  rw [State.frameByte, State.frameByte, h.frame, h.frameDraw]

/-- Settles O51: the run of a SEND delivers what it offers, and moves only the ports and the transmitter. -/
theorem successfulSendDeliversFrame : Obligations.SuccessfulSendDeliversFrame := by
  intro s w ws ps rest hn he ht hq hw hp hfail hcount hlast
  obtain ⟨t, hrun, hsent⟩ := run_send hn (s.accepts_iff.2 ⟨he, ht⟩) hq hw hp hfail hcount hlast
  refine ⟨t, hrun, ?_, hsent.frameByte, hsent.frame, hsent.txActive, hsent.encState.trans he, hsent.cmdQueue,
    hsent.sinkPins, hsent.cfg⟩
  rw [hsent.outs, offered, ← List.range_eq_range', List.append_assoc]

theorem step_tx_fail {s : State} {p : SinkPins} {ps : List SinkPins} (hn : NoReset s) (ha : s.action = .tx)
    (hp : s.sinkPins = p :: ps) (hans : p.answer = .fail) :
    step s = .next (s.tick.takeAnswer.endTransmission.raise .transmissionError).tick :=
  step_of_answered (operate_tx ha (.failed p ps hp hans))
    (by simp [responseDue, ha, sinkAnswer, hp, hans]) hn.rstAtResponse_eq_false

/-- A transmission whose sink fails before the last byte is accepted delivers the bytes accepted so far, and then
TransmissionError (42_frame_encoder.md R150, R152). -/
theorem run_failing_transmission (ps rest : List SinkPins) {p : SinkPins} {s : State} (hn : NoReset s)
    (he : s.encState = .ready) (ht : s.txActive = true) (hp : s.sinkPins = ps ++ p :: rest)
    (hfail : ∀ q ∈ ps, q.fail = false) (hcount : s.txIdx.toNat + acceptCount ps < s.cfg.frameLen)
    (hpfail : p.fail = true) :
    ∃ t, run (ps.length + 1) s = .next t ∧
      HasSent s t (offered s s.txIdx.toNat (acceptCount ps) ++ [.rsp .transmissionError 0]) rest := by
  induction ps generalizing s with
  | nil =>
    have ha : s.action = .tx := s.action_eq_tx_iff.2 ⟨hn.rst_eq_false, he, ht⟩
    have hans : p.answer = .fail := by simp [SinkPins.answer, hpfail]
    have hpins : s.sinkPins.tail = rest := by rw [hp]; rfl
    exact ⟨_, run_succ 0 (step_tx_fail hn ha hp hans), rfl, rfl, rfl, rfl, rfl, rfl, hpins, rfl⟩
  | cons q ps ih =>
    have ha : s.action = .tx := s.action_eq_tx_iff.2 ⟨hn.rst_eq_false, he, ht⟩
    have hfail' : ∀ q ∈ ps, q.fail = false := fun q' hq' => hfail q' (List.mem_cons_of_mem _ hq')
    have hp' : s.sinkPins.tail = ps ++ p :: rest := by rw [hp]; rfl
    rw [acceptCount_cons] at hcount ⊢
    rcases q.answer_cases with ⟨hf, -⟩ | ⟨-, -, hans⟩ | ⟨-, -, hans⟩
    · simp [hfail q (List.mem_cons_self ..)] at hf
    · rw [if_pos hans] at hcount ⊢
      have hmore : s.txIdx.toNat + 1 < s.cfg.frameLen := by omega
      have hnext := txIdx_succ_toNat hmore
      obtain ⟨t, hrun, hsent⟩ := ih (s := (s.tick.takeAnswer.emit (s.frameByte s.txIdx.toNat) false).advance)
        (hn.of_tail rfl) he ht hp' hfail' (by change (s.txIdx + 1).toNat + _ < s.cfg.frameLen; omega)
      refine ⟨t, (run_succ _ (step_tx_more ha hp hans hmore)).trans hrun, ?_⟩
      rw [State.advance_txIdx, State.emit_txIdx, State.takeAnswer_txIdx, State.tick_txIdx, hnext] at hsent
      rw [offered_succ, decide_eq_false (by omega)]
      exact hsent.of_byte
    · rw [if_neg (by simp [hans])] at hcount ⊢
      obtain ⟨t, hrun, hsent⟩ := ih (s := s.tick.takeAnswer) (hn.of_tail rfl) he ht hp' hfail' hcount
      exact ⟨t, (run_succ _ (step_tx_wait ha hp hans)).trans hrun, hsent.of_wait⟩

/-- Short of the last byte of the frame, none of the bytes offered is marked (30_encoding.md R87). -/
theorem offered_unmarked {s : State} {n : Nat} (h : n < s.cfg.frameLen) :
    offered s 0 n = (List.range n).map fun k => Output.byte (s.frameByte k) false := by
  rw [offered, ← List.range_eq_range']
  refine List.map_congr_left fun k hk => ?_
  have hlt := List.mem_range.1 hk
  rw [decide_eq_false (by omega)]

/-- Settles O52: the failing sink ends the transmission after the bytes accepted so far, and a SEND starts at
address 0. -/
theorem failedSendDeliversPrefix : Obligations.FailedSendDeliversPrefix := by
  intro s w ws ps rest p hn he ht hq hw hp hfail hcount hpfail
  obtain ⟨t, hrun, hsent⟩ := run_failing_transmission ps rest
    (s := { s with rstPins := s.rstPins.tail, cmdQueue := ws, txIdx := 0, txActive := true })
    (hn.of_tail rfl) he rfl hp hfail ((Nat.zero_add _).trans_lt hcount) hpfail
  have haccepts := hsent.accepts he
  refine ⟨t, (run_succ _ (step_send hn (s.accepts_iff.2 ⟨he, ht⟩) hq hw)).trans hrun, ?_, hsent.frameByte, hsent.frame,
    haccepts, hsent.cmdQueue, hsent.sinkPins, hsent.cfg, exec_send haccepts⟩
  rw [hsent.outs, ← List.append_assoc]
  exact congrArg (s.outs ++ · ++ _) (offered_unmarked hcount)

end Sys2Proof.Safety

namespace Sys2Proof.Machine

/-! A block with nothing to do (60_exceptions.md R191). -/

theorem State.action_eq_idle_iff (s : State) :
    s.action = .idle ↔ s.rst = false ∧ s.accepts = true ∧ s.cmdQueue = [] := by
  constructor
  · intro h
    rcases s.action_cases with ⟨ha, -⟩ | ⟨ha, -⟩ | ⟨ha, -⟩ | ⟨w, ws, ha, -⟩ | ⟨-, hs⟩
    case inr.inr.inr.inr => exact hs
    all_goals simp [ha] at h
  · rintro ⟨hr, hs, hq⟩
    obtain ⟨he, ht⟩ := s.accepts_iff.1 hs
    simp [State.action, hr, he, ht, hq]

end Sys2Proof.Machine

namespace Sys2Proof.Safety

open Sys2Proof.Machine

/-- Waiting for a command is a step of its own, which answers nothing (log 6). -/
theorem step_of_idle {s : State} (ha : s.action = .idle) : step s = .next s.tick :=
  step_of_quiet (by rw [operate, ha]) (by simp [responseDue, ha])

/-- Settles O38: with nothing to do the enabled action is to wait, which uses up one level of `rst`. -/
theorem idleBlockKeepsItsState : Obligations.IdleBlockKeepsItsState := by
  intro s hr he ht hq
  exact step_of_idle (s.action_eq_idle_iff.2 ⟨hr, s.accepts_iff.2 ⟨he, ht⟩, hq⟩)

end Sys2Proof.Safety

/-! PROOFS. Family 70_reset_and_hazards.md: the reset step (R196), what a reset replaces (R197), and a sink that never
answers (R210). -/
namespace Sys2Proof.Machine

/-! The four output pins that show the state, after a reset step (70_reset_and_hazards.md R196). -/

@[simp] theorem takeReset_cmdReady (s : State) : (takeReset s).cmdReady = false := by
  simp [State.cmdReady, State.accepts]
@[simp] theorem takeReset_txValid (s : State) : (takeReset s).txValid = false := by simp [State.txValid]
@[simp] theorem takeReset_encReady (s : State) : (takeReset s).encReady = false := rfl
@[simp] theorem takeReset_txBusy (s : State) : (takeReset s).txBusy = false := rfl

/-- The transmission draws no new free bytes for `FRAME` (U1). -/
theorem TxEffect.frameDraw_eq {s t : State} (h : TxEffect s t) : t.frameDraw = s.frameDraw := by
  cases h <;> rfl

end Sys2Proof.Machine

namespace Sys2Proof.Safety

open Sys2Proof.Machine

/-- A reset at the step's own edge is the whole step (60_exceptions.md R178). -/
theorem step_of_rst {s : State} (hr : s.rst = true) : step s = .next (takeReset s.tick) :=
  step_of_quiet (by rw [operate, s.action_eq_reset_iff.2 hr]) (responseDue_eq_false_of_rst hr)

/-- A reset comes at the step's own edge, or else at the edge of a response that is due. -/
theorem takesReset_cases {s : State} (h : takesReset s = true) :
    s.rst = true ∨ (s.rst = false ∧ responseDue s = true ∧ s.rstAtResponse = true) := by
  cases hr : s.rst with
  | true => exact .inl rfl
  | false => exact .inr ⟨rfl, by simpa [takesReset, hr] using h⟩

/-- A step that takes in a reset shows `rsp_valid = 0`, whichever edge it comes at (70_reset_and_hazards.md R197). -/
theorem rspPins_eq_none_of_takesReset {s t : State} (h : step s = .next t) (hr : takesReset s = true) :
    rspPins s t = none := by
  obtain ⟨hresponse, -⟩ := responseComesExactlyWhenDue s t h
  by_contra hne
  obtain ⟨-, hnone⟩ := hresponse.1 hne
  simp [hr] at hnone

/-- Settles O36: the step is the reset step, whatever else is presented. -/
theorem resetWinsInEveryState : Obligations.ResetWinsInEveryState := by
  intro s hr
  have hstep := step_of_rst hr
  have hnone := rspPins_eq_none_of_takesReset hstep (by simp [takesReset, hr])
  exact ⟨_, hstep, rfl, rfl, rfl, fun _ => rfl, takeReset_cmdReady _, takeReset_txValid _,
    takeReset_encReady _, takeReset_txBusy _, hnone, rfl, rfl, rfl, rfl, rfl⟩

/-! A reset at the edge of a response: what the operation before it has taken and put out (log 9). -/

/-- Only a reset draws new free bytes for `FRAME` (U1). -/
theorem operate_frameDraw {s u : State} (h : operate s = .next u) (hrst : s.rst = false) :
    u.frameDraw = s.frameDraw := by
  rcases operate_cases h with ⟨ha, -⟩ | ⟨-, hinit⟩ | ⟨-, htx⟩ | ⟨w, ha, hexec⟩ | ⟨-, rfl⟩
  · simp [s.action_eq_reset_iff.1 ha] at hrst
  · rw [initStep_eq] at hinit
    cases hinit
    rfl
  · exact htx.frameDraw_eq
  · exact (exec_effect (State.takeCommand_accepts_of_action ha) hexec).frameDraw_eq
  · rfl

/-- The command stays taken, and its answer is all that it would have put out. -/
theorem cut_command {s u : State} {w : CmdWord} (ha : s.action = .cmd w) (hd : responseDue s = true)
    (h : operate s = .next u) :
    (takeReset (u.tick.withdrawResponses s.outs.length)).outs = s.outs ∧ u.cmdQueue = s.cmdQueue.tail ∧
      u.sinkPins = s.sinkPins := by
  have hs := State.takeCommand_accepts_of_action ha
  rw [operate_cmd ha] at h
  obtain ⟨-, hcmd, hpins, -⟩ := (exec_effect hs h).inputs_eq
  obtain ⟨hsend, -⟩ | ⟨-, c, d, houts⟩ := command_outs hs h
  · exact absurd hsend ((responseDue_cmd_iff ha).1 hd)
  · exact ⟨(withdrawn_outs houts).trans (List.append_nil _), hcmd, hpins⟩

/-- The end of a transmission: the sink's answer stays taken, and the last byte put out if the sink has accepted it. -/
theorem cut_transmission {s u : State} {p : SinkPins} {ps : List SinkPins} (ha : s.action = .tx)
    (hp : s.sinkPins = p :: ps) (hd : responseDue s = true) (h : operate s = .next u) :
    u.cmdQueue = s.cmdQueue ∧ u.sinkPins = ps ∧
      (p.fail = true → (takeReset (u.tick.withdrawResponses s.outs.length)).outs = s.outs) ∧
      (p.fail = false → (takeReset (u.tick.withdrawResponses s.outs.length)).outs =
        s.outs ++ [.byte (s.frameByte s.txIdx.toNat) true]) := by
  have hend : p.fail = true ∨ (p.ready = true ∧ s.txIdx.toNat + 1 = s.cfg.frameLen) := by
    simpa [responseDue_tx_iff ha, hp] using hd
  have htaken : s.sinkPins.tail = ps := by rw [hp, List.tail_cons]
  cases hf : p.fail with
  | true =>
    have hfailed := operate_tx ha (.failed p ps hp (by simp [SinkPins.answer, hf]))
    cases hfailed.symm.trans h
    refine ⟨rfl, htaken, fun _ => ?_, by simp⟩
    exact (withdrawn_outs (evs := [.rsp .transmissionError 0]) (by rfl)).trans (List.append_nil _)
  | false =>
    obtain ⟨hready, hlast⟩ := hend.resolve_left (by simp [hf])
    have haccepted := operate_tx ha (.acceptedLast p ps hp (by simp [SinkPins.answer, hf, hready]) hlast)
    cases haccepted.symm.trans h
    refine ⟨rfl, htaken, by simp, fun _ => ?_⟩
    exact withdrawn_outs (evs := [.byte (s.frameByte s.txIdx.toNat) true, .rsp .ok 0]) (List.append_assoc ..)

/-- Settles O35: a reset at the step's edge leaves the ports alone, and one at the response's edge follows a command or
the end of a transmission. -/
theorem resetReplacesTransferAndResponse : Obligations.ResetReplacesTransferAndResponse := by
  intro s t h hr
  have hnone := rspPins_eq_none_of_takesReset h hr
  rcases takesReset_cases hr with hrst | ⟨hrst, hd, hcut⟩
  · cases (step_of_rst hrst).symm.trans h
    exact ⟨rfl, rfl, rfl, fun _ => rfl, hnone, fun _ => ⟨rfl, rfl, rfl⟩, fun hn => by simp [hrst] at hn⟩
  · obtain ⟨u, hu, -⟩ := step_cases h
    cases (step_of_cut hu hd hcut).symm.trans h
    exact ⟨rfl, rfl, rfl, fun a => by simp [operate_frameDraw hu hrst], hnone, fun hn => by simp [hrst] at hn,
      fun _ => ⟨fun w ha => cut_command ha hd hu, fun p ps ha hp => cut_transmission ha hp hd hu⟩⟩

/-! A sink that never answers (70_reset_and_hazards.md R210). -/

theorem step_tx_silent {s : State} (ha : s.action = .tx) (hp : s.sinkPins = []) : step s = .next s.tick :=
  step_of_quiet (operate_tx ha (.silent hp)) (by simp [responseDue, ha, sinkAnswer, hp])

/-- A silent sink leaves the byte on offer and the transmission in flight, however long the block runs. -/
theorem run_silent (n : Nat) {s : State} (hn : NoReset s) (he : s.encState = .ready) (ht : s.txActive = true)
    (hp : s.sinkPins = []) : run n s = .next { s with rstPins := s.rstPins.drop n } := by
  induction n generalizing s with
  | zero => rfl
  | succ n ih =>
    have ha : s.action = .tx := s.action_eq_tx_iff.2 ⟨hn.rst_eq_false, he, ht⟩
    rw [run_succ n (step_tx_silent ha hp), ih (s := s.tick) (hn.of_tail rfl) he ht hp]
    simp [State.tick]

/-- Settles O55: the transmission is still in flight after any run, so no command is accepted. -/
theorem silentSinkHoldsTransmission : Obligations.SilentSinkHoldsTransmission := by
  intro s n hn he ht hp
  exact ⟨_, run_silent n hn he ht hp, rfl, by simp [State.cmdReady, State.accepts, ht]⟩

end Sys2Proof.Safety

/-! PROOFS. The words of the decoding vectors (95_test_vectors.md section 2.2). -/
namespace Sys2Proof

/-- A word is a command exactly when, with the bits its opcode does not read cleared, it is the word the encoder gives
that command (30_encoding.md R81, R82). -/
theorem decode_eq_iff_and_readMask_eq_encode (w : CmdWord) (i : Instr) :
    decode w = i ↔ w &&& readMask (CmdWord.op w) = encode i := by
  have hinj : Function.Injective encode := Function.LeftInverse.injective decode_encode
  rw [← encode_decode, hinj.eq_iff]

/-- Settles O4: each listed word, with the bits its opcode does not read cleared, is the encoding of its command. -/
theorem specWordsDecodeAsListed : Obligations.SpecWordsDecodeAsListed := by
  simp only [Obligations.SpecWordsDecodeAsListed, decode_eq_iff_and_readMask_eq_encode]
  decide

end Sys2Proof
